-- ==== Sys2Proof/Word.lean ====
section
/-! DEFINITION. The word types of the CORE (00_scope.md R11, R13): u8, u32 and u64, unsigned, with
wrap-around arithmetic (40_operation.md R160), which is `BitVec`'s own. -/

namespace Sys2Proof

/-- u8 (R13). -/
abbrev Byte := BitVec 8

/-- u32 (R13); every register is one of these (R11). -/
abbrev Word := BitVec 32

/-- u64 (R13). -/
abbrev DWord := BitVec 64

end Sys2Proof
end

