-- ==== Sys2Proof/Syntax.lean ====
section
/-! DEFINITION. The commands of the CORE, one constructor per row of spec/opcode_table.json
(30_encoding.md R113, R114). A command has one operand field in its word: the ignored bits [31:4]
(R110); its real operands are registers (R116 to R118). -/

namespace Sys2Proof

/-- A command word: the OPC is the constructor, `ignored` the bits [31:4] (R110, R111). -/
inductive Instr where
  | hash1 (ignored : BitVec 28)
  | hash1a (ignored : BitVec 28)
  | hash2 (ignored : BitVec 28)
  | hash2a (ignored : BitVec 28)
  | hash2n (ignored : BitVec 28)
  | hash2al (ignored : BitVec 28)
  | hash64a (ignored : BitVec 28)
  | hash64b (ignored : BitVec 28)
  | hash3x86_32 (ignored : BitVec 28)
  | hash3x86_128 (ignored : BitVec 28)
  | hash3x64_128 (ignored : BitVec 28)
  | reserved0x0 (ignored : BitVec 28)
  | reserved0xC (ignored : BitVec 28)
  | reserved0xD (ignored : BitVec 28)
  | reserved0xE (ignored : BitVec 28)
  | reserved0xF (ignored : BitVec 28)
deriving DecidableEq, Repr

/-- The ignored bits [31:4] of a command word (R110). -/
def Instr.ignored : Instr → BitVec 28
  | .hash1 g | .hash1a g | .hash2 g | .hash2a g | .hash2n g | .hash2al g | .hash64a g | .hash64b g
  | .hash3x86_32 g | .hash3x86_128 g | .hash3x64_128 g
  | .reserved0x0 g | .reserved0xC g | .reserved0xD g | .reserved0xE g | .reserved0xF g => g

end Sys2Proof
end

