-- ==== Sys2Proof/Decode.lean ====
section
/-! DEFINITION. The command decoder and, after it, the encoder (30_encoding.md R110 to R114). -/

namespace Sys2Proof

/-- The ignored field of a command word, bits [31:4] (R110). -/
def ignoredField (w : Word) : BitVec 28 := w.extractLsb' 4 28

/-- The command a 32-bit value written to CMD stands for, by its bits [3:0] (R111, R113, R114). Every word
is one. -/
def decodeWord (w : Word) : Instr :=
  let g := ignoredField w
  match w.getLsbD 3, w.getLsbD 2, w.getLsbD 1, w.getLsbD 0 with
  | false, false, false, false => .reserved0x0 g
  | false, false, false, true => .hash1 g
  | false, false, true , false => .hash1a g
  | false, false, true , true => .hash2 g
  | false, true , false, false => .hash2a g
  | false, true , false, true => .hash2n g
  | false, true , true , false => .hash2al g
  | false, true , true , true => .hash64a g
  | true , false, false, false => .hash64b g
  | true , false, false, true => .hash3x86_32 g
  | true , false, true , false => .hash3x86_128 g
  | true , false, true , true => .hash3x64_128 g
  | true , true , false, false => .reserved0xC g
  | true , true , false, true => .reserved0xD g
  | true , true , true , false => .reserved0xE g
  | true , true , true , true => .reserved0xF g

/-- Why a run of bytes is no command (R112: a command is exactly one 32-bit write). -/
inductive DecodeError where
  /-- The write carries this many bytes, not four. Safe: no command is decoded from it. -/
  | notOneWord (bytes : Nat)
deriving DecidableEq, Repr

/-- The command in the bytes of one bus data word, byte i being bits [8i+7:8i] (R112; log 15). -/
def decodeBytes : List Byte → Except DecodeError Instr
  | [b0, b1, b2, b3] => .ok (decodeWord (b3 ++ b2 ++ b1 ++ b0))
  | bs => .error (.notOneWord bs.length)

/-- The OPC of a command (R113, R114). -/
def Instr.opc : Instr → BitVec 4
  | .reserved0x0 _ => 0x0#4
  | .hash1 _ => 0x1#4
  | .hash1a _ => 0x2#4
  | .hash2 _ => 0x3#4
  | .hash2a _ => 0x4#4
  | .hash2n _ => 0x5#4
  | .hash2al _ => 0x6#4
  | .hash64a _ => 0x7#4
  | .hash64b _ => 0x8#4
  | .hash3x86_32 _ => 0x9#4
  | .hash3x86_128 _ => 0xA#4
  | .hash3x64_128 _ => 0xB#4
  | .reserved0xC _ => 0xC#4
  | .reserved0xD _ => 0xD#4
  | .reserved0xE _ => 0xE#4
  | .reserved0xF _ => 0xF#4

/-- The command word of a command: ignored bits over OPC (R110). -/
def encode (i : Instr) : Word := i.ignored ++ i.opc

/-- The bytes of one bus data word that carry a command (R112). -/
def encodeBytes (i : Instr) : List Byte :=
  let w := encode i
  [w.extractLsb' 0 8, w.extractLsb' 8 8, w.extractLsb' 16 8, w.extractLsb' 24 8]

/-- The instruction read from the low `nbits` bits of `w`, the bits above them being 0 (R110). A row of
no bits, or of more bits than the one 32-bit write a command is, decodes to nothing (R112). -/
def decodeTableWord (nbits w : Nat) : Option Instr :=
  if nbits = 0 then none
  else if nbits ≤ 32 then some (decodeWord (BitVec.ofNat 32 (w % 2 ^ nbits)))
  else none

end Sys2Proof
end

