-- ==== Sys2Proof/Machine/Arith.lean ====
section
/-! DEFINITION. The bit and byte-order helpers the digest functions share (00_scope.md R13, R14), and the
two MurmurHash3 finalization mixes (40_operation.md R165, R166). -/

namespace Sys2Proof.Machine

/-- `rotl_32` (R13). -/
def rotl32 (a : Word) (s : Nat) : Word := (a <<< s) ||| (a >>> (32 - s))

/-- `rotl_64` (R13). -/
def rotl64 (a : DWord) (s : Nat) : DWord := (a <<< s) ||| (a >>> (64 - s))

/-- `B[i]` (R15). Past the end, in states no run reaches, it is 0 (log 11). -/
def byteAt (b : List Byte) (i : Nat) : Byte := b.getD i 0#8

/-- `zext_32(B[i])` (R13). -/
def byte32 (b : List Byte) (i : Nat) : Word := (byteAt b i).setWidth 32

/-- `zext_64(B[i])` (R13). -/
def byte64 (b : List Byte) (i : Nat) : DWord := (byteAt b i).setWidth 64

/-- `le32(B, i)` (R14, 20_memory.md R82). -/
def le32 (b : List Byte) (i : Nat) : Word :=
  byte32 b i ||| byte32 b (i + 1) <<< 8 ||| byte32 b (i + 2) <<< 16 ||| byte32 b (i + 3) <<< 24

/-- `le64(B, i)` (R14, 20_memory.md R82). -/
def le64 (b : List Byte) (i : Nat) : DWord :=
  byte64 b i ||| byte64 b (i + 1) <<< 8 ||| byte64 b (i + 2) <<< 16 ||| byte64 b (i + 3) <<< 24 |||
    byte64 b (i + 4) <<< 32 ||| byte64 b (i + 5) <<< 40 ||| byte64 b (i + 6) <<< 48 |||
    byte64 b (i + 7) <<< 56

/-- `le32bytes(v)` (43_hash3.md R243). -/
def le32bytes (v : Word) : List Byte :=
  [v.extractLsb' 0 8, v.extractLsb' 8 8, v.extractLsb' 16 8, v.extractLsb' 24 8]

/-- `le64bytes(v)` (43_hash3.md R245). -/
def le64bytes (v : DWord) : List Byte :=
  [v.extractLsb' 0 8, v.extractLsb' 8 8, v.extractLsb' 16 8, v.extractLsb' 24 8,
   v.extractLsb' 32 8, v.extractLsb' 40 8, v.extractLsb' 48 8, v.extractLsb' 56 8]

/-- `fmix32` (R165). -/
def fmix32 (h : Word) : Word :=
  let h := h ^^^ (h >>> 16)
  let h := h * 0x85EBCA6B#32
  let h := h ^^^ (h >>> 13)
  let h := h * 0xC2B2AE35#32
  h ^^^ (h >>> 16)

/-- `fmix64` (R166). -/
def fmix64 (k : DWord) : DWord :=
  let k := k ^^^ (k >>> 33)
  let k := k * 0xFF51AFD7ED558CCD#64
  let k := k ^^^ (k >>> 33)
  let k := k * 0xC4CEB9FE1A85EC53#64
  k ^^^ (k >>> 33)

end Sys2Proof.Machine
end

