-- ==== Sys2Proof/Config.lean ====
section
/-! DEFINITION. What one instance of the CORE fixes: the parameters of 00_scope.md R10 as plain data,
their defaults, and the one free value (20_memory.md R89). The parameters stand in State as a field no
step changes (log 1), so that a statement about every state is one about every parameter value. -/

namespace Sys2Proof

/-- `P_ADDR_W` (R10): 32 or 64. -/
inductive AddrWidth where
  | w32
  | w64
deriving DecidableEq, Repr

/-- The number of bits of a read-space address (20_memory.md R81). -/
def AddrWidth.bits : AddrWidth → Nat
  | .w32 => 32
  | .w64 => 64

/-- The size of a read on the read port (20_memory.md R85): 1, 4 or 8 bytes. -/
inductive ReadSize where
  | one
  | four
  | eight
deriving DecidableEq, Repr

/-- The read size in bytes (R85). -/
def ReadSize.bytes : ReadSize → Nat
  | .one => 1
  | .four => 4
  | .eight => 8

/-- One piece of `P_BUS_ERROR` (20_memory.md R88): reads of `size` at addresses `lo` to `hi` (inclusive)
answer BusError. A list of these gives any predicate on (address, size) over a finite space (log 3). -/
structure BusErrorRange where
  size : ReadSize
  lo : Nat
  hi : Nat
deriving DecidableEq, Repr

/-- A region of the read space whose reads have side effects, addresses `lo` to `hi` inclusive
(20_memory.md R89; log 5). -/
structure AddrRange where
  lo : Nat
  hi : Nat
deriving DecidableEq, Repr

/-- The parameters of 00_scope.md R10, and the side-effect regions of 20_memory.md R89. -/
structure Params where
  /-- `P_ADDR_W`. -/
  addrW : AddrWidth
  /-- `P_MISALIGNED_RD`. -/
  misalignedRd : Bool
  /-- `P_VARIANTS`: bit n - 1 is set iff OPC n is implemented (10_state.md R42). -/
  variants : BitVec 11
  /-- `P_BASE`, the bus address of the register window (10_state.md R31). -/
  base : Nat
  /-- `P_BUS_ERROR`. -/
  busError : List BusErrorRange
  /-- Where the read space holds side-effect locations (log 5). -/
  sideEffect : List AddrRange
deriving DecidableEq, Repr

/-- The defaults of R10. `base` has none there: DESIGN CHOICE 0 (log 2). -/
def Params.default : Params where
  addrW := .w64
  misalignedRd := true
  variants := 0x7FF#11
  base := 0
  busError := []
  sideEffect := []

/-- FREE VALUE (20_memory.md R89, 93_implementation_defined.md item 14): the byte that read number
`count` returns for the side-effect location `addr`. No body: nothing is known of it (log 5). -/
opaque Config.sideEffectByte (count addr : Nat) : Byte

end Sys2Proof
end

