-- ==== Sys2Proof/Machine/State.lean ====
section
/-! DEFINITION. The state of one CORE instance (10_state.md R30) with the read space its port reads, the
parameters, and the order in which the agents move; the reasons a step can stop; the state after reset. -/

namespace Sys2Proof.Machine

/-- The engine phase, exactly STATUS.BUSY (10_state.md R45, R60). -/
inductive Phase where
  | idle
  | run
deriving DecidableEq, Repr

/-- The completion codes (60_exceptions.md R281). -/
inductive ErrCode where
  | ok
  | opc
  | unimpl
  | len
  | range
  | align
  | bus
deriving DecidableEq, Repr

/-- One read of a plan (10_state.md R61): `size` bytes at `addr`. -/
structure ReadReq where
  addr : Nat
  size : ReadSize
deriving DecidableEq, Repr

/-- One step of the total order in which the agents move (20_memory.md R92, 70_reset_and_hazards.md R320;
log 6). -/
inductive Event where
  /-- The host reads `size` bytes at a bus address (10_state.md R32, R37). -/
  | hostRead (addr size : Nat)
  /-- The host writes `size` bytes at a bus address; a write of fewer than four bytes carries them in the
  low bits of `value` (R32, R37). -/
  | hostWrite (addr size : Nat) (value : Word)
  /-- The host polls STATUS until DONE is 1 (30_encoding.md R119). -/
  | waitDone
  /-- The host waits until irq is 1 (R119). -/
  | waitIrq
  /-- The engine takes its next step, if one is enabled (40_operation.md R140). -/
  | engine
  /-- Another agent writes consecutive bytes of the read space in one step (R92). -/
  | memWrite (addr : Nat) (data : List Byte)
  /-- The hard reset input `rst` (R320). -/
  | hardReset
deriving DecidableEq, Repr

/-- What the host bus last answered (10_state.md R32 to R34; log 8). -/
inductive Response where
  /-- No host access yet. -/
  | none
  /-- A read returned this value. -/
  | data (value : Word)
  /-- A write got a normal response. -/
  | written
  /-- The error response of R32; its form is the platform's. -/
  | error
  /-- The access was not to this instance's window (R31; log 9). -/
  | notSelected
deriving DecidableEq, Repr

/-- The state: INVENTORY.md lists every field with the rule that names it. -/
structure State where
  /-- CTRL.IE (10_state.md R43). -/
  ie : Bool
  /-- STATUS.DONE (R46). -/
  done : Bool
  /-- STATUS.ERRCODE (R48). -/
  errcode : BitVec 4
  /-- STATUS.DROP (R49). -/
  drop : Bool
  /-- CMD.OPC (R50). -/
  cmdOpc : BitVec 4
  /-- LEN (R51). -/
  len : Word
  /-- SRC_LO (R52). -/
  srcLo : Word
  /-- SRC_HI (R52). -/
  srcHi : Word
  /-- SEED_LO (R53). -/
  seedLo : Word
  /-- SEED_HI (R53). -/
  seedHi : Word
  /-- DIG0 (R54). -/
  dig0 : Word
  /-- DIG1 (R54). -/
  dig1 : Word
  /-- DIG2 (R54). -/
  dig2 : Word
  /-- DIG3 (R54). -/
  dig3 : Word
  /-- The engine phase and STATUS.BUSY (R45, R60). -/
  phase : Phase
  /-- ENG.PLAN (R61). -/
  plan : List ReadReq
  /-- ENG.BYTES (R61). -/
  bytes : List Byte
  /-- The read space (20_memory.md R80), in the canonical form of `memWf`. -/
  mem : List Host.Cell
  /-- The instance's parameters (00_scope.md R10; log 1). -/
  params : Params
  /-- The steps the agents take next, in order (20_memory.md R92; log 6). -/
  script : List Event
  /-- The host bus's last answer (log 8). -/
  resp : Response
  /-- How many reads have returned data: the argument of the free value (20_memory.md R89; log 5). -/
  readCount : Nat
deriving DecidableEq, Repr

/-- Why the model stops. None is the core's own (60_exceptions.md R280): the core has no trap. -/
inductive Fault where
  /-- The engine step: a plan entry lies outside the read space (20_memory.md R81). No run reaches it
  (40_operation.md R147). Safe: the model stops (log 11). -/
  | readOutsideSpace (addr : Nat)
  /-- The engine step: a misaligned word read where P_MISALIGNED_RD is false (20_memory.md R86: "the core
  never issues one"). No run reaches it. Safe: the model stops (log 11). -/
  | misalignedRead (addr : Nat)
  /-- The engine step: a running engine whose OPC is reserved (40_operation.md R143). No run reaches it.
  Safe: the model stops (log 11). -/
  | runningReservedOpc (opc : BitVec 4)
  /-- An agent's write: bytes outside the read space, which do not exist (20_memory.md R81). Safe: the
  model stops (log 12). -/
  | writeOutsideSpace (addr : Nat)
deriving DecidableEq, Repr

/-- Why an instruction has no meaning. -/
inductive Refusal where
  /-- Raised by an arm of `exec` for an instruction that has no meaning yet. Safe: the model stops. -/
  | notModelled (mnemonic : String)
deriving DecidableEq, Repr

/-- The machine right after reset (70_reset_and_hazards.md R321), with the default parameters, nothing
listed in memory and no agent's step pending. -/
def State.reset : State where
  ie := false
  done := false
  errcode := 0#4
  drop := false
  cmdOpc := 0#4
  len := 0#32
  srcLo := 0#32
  srcHi := 0#32
  seedLo := 0#32
  seedHi := 0#32
  dig0 := 0#32
  dig1 := 0#32
  dig2 := 0#32
  dig3 := 0#32
  phase := .idle
  plan := []
  bytes := []
  mem := []
  params := .default
  script := []
  resp := .none
  readCount := 0

end Sys2Proof.Machine
end

