-- ==== Sys2Proof/Machine/Operands.lean ====
section
/-! DEFINITION. The eleven variants (30_encoding.md R113), how a command assembles its operands (R116 to
R118), and the reads it plans (40_operation.md R146, R147). -/

namespace Sys2Proof.Machine

/-- The eleven variant commands (R113). -/
inductive Variant where
  | hash1
  | hash1a
  | hash2
  | hash2a
  | hash2n
  | hash2al
  | hash64a
  | hash64b
  | hash3x86_32
  | hash3x86_128
  | hash3x64_128
deriving DecidableEq, Repr

/-- The OPC of a variant (R113). -/
def Variant.opc : Variant → BitVec 4
  | .hash1 => 0x1#4
  | .hash1a => 0x2#4
  | .hash2 => 0x3#4
  | .hash2a => 0x4#4
  | .hash2n => 0x5#4
  | .hash2al => 0x6#4
  | .hash64a => 0x7#4
  | .hash64b => 0x8#4
  | .hash3x86_32 => 0x9#4
  | .hash3x86_128 => 0xA#4
  | .hash3x64_128 => 0xB#4

/-- The eleven variants in the order of their OPC (R113). -/
def variantList : List Variant :=
  [.hash1, .hash1a, .hash2, .hash2a, .hash2n, .hash2al, .hash64a, .hash64b, .hash3x86_32,
   .hash3x86_128, .hash3x64_128]

/-- The variant an OPC selects; none for the reserved OPCs (R113, R114). -/
def variantOfOpc (opc : BitVec 4) : Option Variant := variantList.find? (fun v => v.opc == opc)

/-- OPC n is in `P_VARIANTS` (10_state.md R42). -/
def implements (p : Params) (v : Variant) : Bool := p.variants.getLsbD (v.opc.toNat - 1)

/-- The size of the read space, 2^P_ADDR_W (20_memory.md R81). -/
def spaceSize (p : Params) : Nat := 2 ^ p.addrW.bits

/-- SRC (30_encoding.md R117, 10_state.md R52), as an address. -/
def State.src (s : State) : Nat :=
  match s.params.addrW with
  | .w64 => (s.srcHi ++ s.srcLo).toNat
  | .w32 => s.srcLo.toNat

/-- L (30_encoding.md R118). -/
def State.inputLen (s : State) : Nat := s.len.toNat

/-- SEED of the 64-bit-seed commands (R116). -/
def State.seed64 (s : State) : DWord := s.seedHi ++ s.seedLo

/-- SEED of the 32-bit-seed commands (R116). -/
def State.seed32 (s : State) : Word := s.seedLo

/-- The word size W of a command's discipline (40_operation.md R146). -/
def wordSize : Variant → ReadSize
  | .hash1 | .hash2 | .hash2a | .hash64b | .hash3x86_32 => .four      -- W4
  | .hash3x86_128 => .four                                           -- W4
  | .hash64a => .eight                                               -- W8
  | .hash3x64_128 => .eight                                          -- W8
  | .hash1a | .hash2al => .four                                      -- AL4
  | .hash2n => .four                                                 -- BYTE

/-- The word count NW(OPC, SRC, L) (R146). -/
def wordCount (v : Variant) (src l : Nat) : Nat :=
  match v with
  | .hash1 | .hash2 | .hash2a | .hash64b | .hash3x86_32 => l / 4
  | .hash3x86_128 => 4 * (l / 16)
  | .hash64a => l / 8
  | .hash3x64_128 => 2 * (l / 16)
  | .hash1a | .hash2al => if src % 4 = 0 then l / 4 else 0
  | .hash2n => 0

/-- Plan(OPC, SRC, L) (R147): the word reads, then the byte reads, addresses in P_ADDR_W bits. -/
def planOf (p : Params) (v : Variant) (src l : Nat) : List ReadReq :=
  let w := (wordSize v).bytes
  let nw := wordCount v src l
  (List.range nw).map (fun j => ⟨(src + w * j) % spaceSize p, wordSize v⟩) ++
    (List.range (l - w * nw)).map (fun i => ⟨(src + (w * nw + i)) % spaceSize p, .one⟩)

end Sys2Proof.Machine
end

