-- ==== Sys2Proof/Machine/Flags.lean ====
section
/-! DEFINITION. The status and control fields (10_state.md R42 to R50), the words the host reads them as,
the writes that change them, and the irq output (60_exceptions.md R295). -/

namespace Sys2Proof.Machine

/-- The 4-bit code of a completion code (60_exceptions.md R281). -/
def ErrCode.code : ErrCode → BitVec 4
  | .ok => 0#4
  | .opc => 1#4
  | .unimpl => 2#4
  | .len => 3#4
  | .range => 4#4
  | .align => 5#4
  | .bus => 6#4

/-- A flag as a 32-bit value. -/
def flagWord (b : Bool) : Word := if b then 1#32 else 0#32

/-- STATUS.BUSY (R45), which is exactly the phase (R60). -/
def State.busy (s : State) : Bool := s.phase == .run

/-- STATUS.ERR (R47): always `ERRCODE != 0`. -/
def State.err (s : State) : Bool := s.errcode != 0#4

/-- The read value of STATUS (R49). -/
def statusWord (s : State) : Word :=
  flagWord s.busy ||| flagWord s.done <<< 1 ||| flagWord s.err <<< 2 |||
    (s.errcode.setWidth 32) <<< 4 ||| flagWord s.drop <<< 8

/-- The read value of CTRL: IE in bit [0], SRST reads 0 (R43, R44). -/
def ctrlWord (s : State) : Word := flagWord s.ie

/-- The read value of CMD (R50). -/
def cmdWord (s : State) : Word := s.cmdOpc.setWidth 32

/-- CAPS, hardwired from the parameters (R42). -/
def capsWord (p : Params) : Word :=
  (p.variants.setWidth 32) <<< 1 ||| flagWord p.misalignedRd <<< 16 |||
    flagWord (p.addrW == .w64) <<< 17

/-- A host write to STATUS: DONE and DROP are write-1-to-clear, no other bit is writable (R45 to R49). -/
def writeStatus (v : Word) (s : State) : State :=
  { s with
    done := s.done && !v.getLsbD 1
    drop := s.drop && !v.getLsbD 8 }

/-- The irq output (60_exceptions.md R295). -/
def irq (s : State) : Bool := s.ie && s.done

end Sys2Proof.Machine
end

