-- ==== Sys2Proof/Machine/Memory.lean ====
section
/-! DEFINITION. The read space (20_memory.md R80, R81) as a list of (address, byte) pairs in one canonical
form: addresses strictly rising, no entry equal to what an unlisted address reads as. -/

namespace Sys2Proof.Machine

/-- What an address no one has written reads as. The spec leaves the contents to the platform (R90):
DESIGN CHOICE 0x00 (log 4). -/
def unlistedByte : Byte := 0x00#8

/-- The canonical form. -/
def memWf : List Host.Cell → Bool
  | [] => true
  | (k, v) :: m => v != unlistedByte && m.all (fun c => decide (k < c.1)) && memWf m

/-- The byte at an address (R81). -/
def memByte : List Host.Cell → Nat → Byte
  | [], _ => unlistedByte
  | (k, v) :: m, a => if k = a then v else memByte m a

/-- Put one byte at an address, keeping the canonical form. -/
def memPut : List Host.Cell → Nat → Byte → List Host.Cell
  | [], a, b => if b = unlistedByte then [] else [(a, b)]
  | (k, v) :: m, a, b =>
    if a < k then (if b = unlistedByte then (k, v) :: m else (a, b) :: (k, v) :: m)
    else if a = k then (if b = unlistedByte then m else (a, b) :: m)
    else (k, v) :: memPut m a b

/-- Put consecutive bytes, the first at `a` (20_memory.md R92). -/
def memPutList : List Host.Cell → Nat → List Byte → List Host.Cell
  | m, _, [] => m
  | m, a, b :: bs => memPutList (memPut m a b) (a + 1) bs

end Sys2Proof.Machine
end

