-- ==== Sys2Proof/Machine/Ops.lean ====
section
/-! DEFINITION. The operations every command shares: acceptance and its checks (40_operation.md R141 to
R144, 60_exceptions.md R290), completion with error (R282), the read step (R150), completion with success
and the placing of the digest (R155, R156), and reset (70_reset_and_hazards.md R320 to R322). -/

namespace Sys2Proof.Machine

/-- `raise ERR_X` (60_exceptions.md R282): a completion with error. -/
def raise (e : ErrCode) (s : State) : State :=
  { s with
    errcode := e.code
    phase := .idle
    done := true
    plan := []
    bytes := [] }

/-- What acceptance does first, for every OPC (40_operation.md R142). -/
def acceptBase (opc : BitVec 4) (s : State) : State :=
  { s with
    cmdOpc := opc
    done := false
    errcode := ErrCode.ok.code
    dig0 := 0#32
    dig1 := 0#32
    dig2 := 0#32
    dig3 := 0#32 }

/-- The acceptance step (R142, R143, R144): `check` is the first acceptance check that fails, `reads` the
plan if none does. -/
def accept (opc : BitVec 4) (check : Option ErrCode) (reads : List ReadReq) (s : State) : State :=
  match check with
  | some e => raise e (acceptBase opc s)
  | none => { acceptBase opc s with phase := .run, plan := reads, bytes := [] }

/-- A write to an operand register or to CMD while a command runs (10_state.md R36). -/
def dropWrite (s : State) : State := { s with drop := true }

/-- A command written to CMD (40_operation.md R141): accepted while BUSY = 0, else dropped (10_state.md R36). -/
def submit (opc : BitVec 4) (check : Option ErrCode) (reads : List ReadReq) (s : State) : State :=
  if s.busy then dropWrite s else accept opc check reads s

/-- The acceptance checks of an OPC in 1 to 11, in priority order (60_exceptions.md R290, R284 to R287). -/
def acceptError (p : Params) (v : Variant) (src l : Nat) : Option ErrCode :=
  if !implements p v then some .unimpl
  else if 2 ^ 31 ≤ l then some .len
  else if spaceSize p < src + l then some .range
  else if !p.misalignedRd && decide (0 < wordCount v src l) && decide (src % (wordSize v).bytes ≠ 0) then
    some .align
  else none

/-- A variant command written to CMD. -/
def submitVariant (v : Variant) (s : State) : State :=
  submit v.opc (acceptError s.params v s.src s.inputLen) (planOf s.params v s.src s.inputLen) s

/-- A reserved OPC written to CMD (60_exceptions.md R283). -/
def submitReserved (opc : BitVec 4) (s : State) : State := submit opc (some .opc) [] s

/-- `P_BUS_ERROR(a, n)` (20_memory.md R88). -/
def busFails (p : Params) (r : ReadReq) : Bool :=
  p.busError.any (fun e => e.size == r.size && decide (e.lo ≤ r.addr) && decide (r.addr ≤ e.hi))

/-- The address is a side-effect location (20_memory.md R89; log 5). -/
def hasSideEffect (p : Params) (a : Nat) : Bool :=
  p.sideEffect.any (fun e => decide (e.lo ≤ a) && decide (a ≤ e.hi))

/-- The byte that read number `count` returns for an address: the read space's byte as it stands
(20_memory.md R92), or the free value of a side-effect location (R89). -/
def portByte (p : Params) (m : List Host.Cell) (count a : Nat) : Byte :=
  if hasSideEffect p a then Config.sideEffectByte count a else memByte m a

/-- The bytes a read returns, in address order (20_memory.md R85). -/
def portRead (p : Params) (m : List Host.Cell) (count : Nat) (r : ReadReq) : List Byte :=
  (List.range r.size.bytes).map (fun i => portByte p m count (r.addr + i))

/-- The read step with `r` at the head of the plan and `rest` after it (40_operation.md R150, R151). -/
def readStep (r : ReadReq) (rest : List ReadReq) (s : State) : Host.Outcome State Fault Refusal :=
  if spaceSize s.params < r.addr + r.size.bytes then .fault (.readOutsideSpace r.addr)
  else if !s.params.misalignedRd && decide (r.addr % r.size.bytes ≠ 0) then .fault (.misalignedRead r.addr)
  else if busFails s.params r then .next (raise .bus s)
  else .next { s with
    plan := rest
    bytes := s.bytes ++ portRead s.params s.mem s.readCount r
    readCount := s.readCount + 1 }

/-- A digest of one of the three widths (40_operation.md R156). -/
inductive Digest where
  | d32 (d : Word)
  | d64 (d : DWord)
  | d128 (blob : List Byte)
deriving DecidableEq, Repr

/-- `Place(OPC, d)` (R156). -/
def place (d : Digest) (s : State) : State :=
  match d with
  | .d32 d => { s with dig0 := d, dig1 := 0#32, dig2 := 0#32, dig3 := 0#32 }
  | .d64 d => { s with dig0 := d.extractLsb' 0 32, dig1 := d.extractLsb' 32 32, dig2 := 0#32, dig3 := 0#32 }
  | .d128 o => { s with dig0 := le32 o 0, dig1 := le32 o 4, dig2 := le32 o 8, dig3 := le32 o 12 }

/-- Completion with success (R155). -/
def complete (d : Digest) (s : State) : State :=
  { place d s with
    errcode := ErrCode.ok.code
    phase := .idle
    done := true
    plan := []
    bytes := [] }

/-- A reset, hard or soft (70_reset_and_hazards.md R320 to R322): the core's registers and engine return
to the values of R321. The read space, the parameters and the other agents are untouched. -/
def resetCore (s : State) : State :=
  { s with
    ie := false
    done := false
    errcode := ErrCode.ok.code
    drop := false
    cmdOpc := 0#4
    len := 0#32
    srcLo := 0#32
    srcHi := 0#32
    seedLo := 0#32
    seedHi := 0#32
    dig0 := 0#32
    dig1 := 0#32
    dig2 := 0#32
    dig3 := 0#32
    phase := .idle
    plan := []
    bytes := [] }

/-- A host write to CTRL (10_state.md R43, R44): SRST wins over IE. -/
def writeCtrl (v : Word) (s : State) : State :=
  if v.getLsbD 1 then resetCore s else { s with ie := v.getLsbD 0 }

/-- Another agent's write to the read space, one step (20_memory.md R92; log 12). -/
def agentWrite (a : Nat) (data : List Byte) (s : State) : Host.Outcome State Fault Refusal :=
  if spaceSize s.params < a + data.length then .fault (.writeOutsideSpace a)
  else .next { s with mem := memPutList s.mem a data }

end Sys2Proof.Machine
end

