-- ==== Sys2Proof/Machine/Hash1.lean ====
section
/-! DEFINITION. murmur_hash1_core: HASH1 and HASH1A (41_hash1.md). -/

namespace Sys2Proof.Machine

/-- One block of MURMUR1 (R180). -/
def murmur1Block (h k : Word) : Word :=
  let h := h + k
  let h := h * 0xC6A4A793#32
  h ^^^ (h >>> 16)

/-- BLOCK_LOOP of MURMUR1 (R180): blocks 0 to nb - 1. -/
def murmur1Blocks (b : List Byte) (nb : Nat) (h : Word) : Word :=
  (List.range nb).foldl (fun h i => murmur1Block h (le32 b (4 * i))) h

/-- TAIL of MURMUR1 (R180): t bytes from offset o. -/
def murmur1Tail (b : List Byte) (o t : Nat) (h : Word) : Word :=
  let h := if 3 ≤ t then h + (byte32 b (o + 2) <<< 16) else h
  let h := if 2 ≤ t then h + (byte32 b (o + 1) <<< 8) else h
  if 1 ≤ t then
    let h := h + byte32 b o
    let h := h * 0xC6A4A793#32
    h ^^^ (h >>> 16)
  else h

/-- FINALIZE of MURMUR1 (R180). -/
def murmur1Final (h : Word) : Word :=
  let h := h * 0xC6A4A793#32
  let h := h ^^^ (h >>> 10)
  let h := h * 0xC6A4A793#32
  h ^^^ (h >>> 17)

/-- `MURMUR1(B, L, SEED)` (R180). -/
def murmur1 (b : List Byte) (l seed : Word) : Word :=
  let nb := l.toNat / 4
  let h := seed ^^^ (l * 0xC6A4A793#32)
  murmur1Final (murmur1Tail b (4 * nb) (l.toNat % 4) (murmur1Blocks b nb h))

/-- HASH1's acceptance (41_hash1.md R181). -/
def execHash1 (s : State) : Host.Outcome State Fault Refusal := .next (submitVariant .hash1 s)

/-- HASH1's digest (R181). -/
def digestHash1 (s : State) : Digest := .d32 (murmur1 s.bytes s.len s.seed32)

/-- HASH1A's acceptance (41_hash1.md R182). -/
def execHash1A (s : State) : Host.Outcome State Fault Refusal := .next (submitVariant .hash1a s)

/-- HASH1A's digest (R182). -/
def digestHash1A (s : State) : Digest := .d32 (murmur1 s.bytes s.len s.seed32)

end Sys2Proof.Machine
end

