-- ==== Sys2Proof/Machine/Hash2.lean ====
section
/-! DEFINITION. murmur_hash2_32bit_core and murmur_hash2_64bit_core: HASH2, HASH2A, HASH2N, HASH2AL,
HASH64A, HASH64B (42_hash2.md). -/

namespace Sys2Proof.Machine

/-- `mmix` (R201). -/
def mmix (h k : Word) : Word :=
  let k := k * 0x5BD1E995#32
  let k := k ^^^ (k >>> 24)
  let k := k * 0x5BD1E995#32
  let h := h * 0x5BD1E995#32
  h ^^^ k

/-- BLOCK_LOOP of MURMUR2 and MURMUR2A (R200, R202). -/
def murmur2Blocks (b : List Byte) (nb : Nat) (h : Word) : Word :=
  (List.range nb).foldl (fun h i => mmix h (le32 b (4 * i))) h

/-- The tail bytes XORed into a word (R200, R202, R204): t bytes (t < 4) from offset o. -/
def xorTail (b : List Byte) (o t : Nat) (h : Word) : Word :=
  let h := if 3 ≤ t then h ^^^ (byte32 b (o + 2) <<< 16) else h
  let h := if 2 ≤ t then h ^^^ (byte32 b (o + 1) <<< 8) else h
  if 1 ≤ t then h ^^^ byte32 b o else h

/-- TAIL of MURMUR2 and of MURMUR64B's h2 (R200, R204): the XORs, and a multiply if there is a tail. -/
def murmur2Tail (b : List Byte) (o t : Nat) (h : Word) : Word :=
  let h := xorTail b o t h
  if 1 ≤ t then h * 0x5BD1E995#32 else h

/-- FINALIZE of MURMUR2 and MURMUR2A (R200, R202). -/
def murmur2Final (h : Word) : Word :=
  let h := h ^^^ (h >>> 13)
  let h := h * 0x5BD1E995#32
  h ^^^ (h >>> 15)

/-- `MURMUR2(B, L, SEED)` (R200). -/
def murmur2 (b : List Byte) (l seed : Word) : Word :=
  let nb := l.toNat / 4
  let h := seed ^^^ l
  murmur2Final (murmur2Tail b (4 * nb) (l.toNat % 4) (murmur2Blocks b nb h))

/-- `MURMUR2A(B, L, SEED)` (R202): the tail word, then the length, are mixed as words. -/
def murmur2a (b : List Byte) (l seed : Word) : Word :=
  let nb := l.toNat / 4
  let h := murmur2Blocks b nb seed
  let w := xorTail b (4 * nb) (l.toNat % 4) 0#32
  let h := mmix h w
  let h := mmix h l
  murmur2Final h

/-- One block of MURMUR64A (R203). -/
def murmur64aBlock (h k : DWord) : DWord :=
  let k := k * 0xC6A4A7935BD1E995#64
  let k := k ^^^ (k >>> 47)
  let k := k * 0xC6A4A7935BD1E995#64
  let h := h ^^^ k
  h * 0xC6A4A7935BD1E995#64

/-- BLOCK_LOOP of MURMUR64A (R203). -/
def murmur64aBlocks (b : List Byte) (nb : Nat) (h : DWord) : DWord :=
  (List.range nb).foldl (fun h i => murmur64aBlock h (le64 b (8 * i))) h

/-- TAIL of MURMUR64A (R203). -/
def murmur64aTail (b : List Byte) (o t : Nat) (h : DWord) : DWord :=
  let h := if 7 ≤ t then h ^^^ (byte64 b (o + 6) <<< 48) else h
  let h := if 6 ≤ t then h ^^^ (byte64 b (o + 5) <<< 40) else h
  let h := if 5 ≤ t then h ^^^ (byte64 b (o + 4) <<< 32) else h
  let h := if 4 ≤ t then h ^^^ (byte64 b (o + 3) <<< 24) else h
  let h := if 3 ≤ t then h ^^^ (byte64 b (o + 2) <<< 16) else h
  let h := if 2 ≤ t then h ^^^ (byte64 b (o + 1) <<< 8) else h
  if 1 ≤ t then
    let h := h ^^^ byte64 b o
    h * 0xC6A4A7935BD1E995#64
  else h

/-- FINALIZE of MURMUR64A (R203). -/
def murmur64aFinal (h : DWord) : DWord :=
  let h := h ^^^ (h >>> 47)
  let h := h * 0xC6A4A7935BD1E995#64
  h ^^^ (h >>> 47)

/-- `MURMUR64A(B, L, SEED)` (R203). -/
def murmur64a (b : List Byte) (l : Word) (seed : DWord) : DWord :=
  let nb := l.toNat / 8
  let h := seed ^^^ (l.setWidth 64 * 0xC6A4A7935BD1E995#64)
  murmur64aFinal (murmur64aTail b (8 * nb) (l.toNat % 8) (murmur64aBlocks b nb h))

/-- BLOCK_LOOP of MURMUR64B (R204): nb pairs of 4-byte sub-blocks into (h1, h2). -/
def murmur64bBlocks (b : List Byte) (nb : Nat) (h : Word × Word) : Word × Word :=
  (List.range nb).foldl
    (fun h i => (mmix h.1 (le32 b (8 * i)), mmix h.2 (le32 b (8 * i + 4)))) h

/-- FINALIZE of MURMUR64B (R204): cross-lane, h1 the high half. -/
def murmur64bFinal (h1 h2 : Word) : DWord :=
  let h1 := h1 ^^^ (h2 >>> 18)
  let h1 := h1 * 0x5BD1E995#32
  let h2 := h2 ^^^ (h1 >>> 22)
  let h2 := h2 * 0x5BD1E995#32
  let h1 := h1 ^^^ (h2 >>> 17)
  let h1 := h1 * 0x5BD1E995#32
  let h2 := h2 ^^^ (h1 >>> 19)
  let h2 := h2 * 0x5BD1E995#32
  (h1.setWidth 64) <<< 32 ||| h2.setWidth 64

/-- `MURMUR64B(B, L, SEED)` (R204): the loop runs L div 8 times and leaves n = L mod 8. -/
def murmur64b (b : List Byte) (l : Word) (seed : DWord) : DWord :=
  let nb := l.toNat / 8
  let h := murmur64bBlocks b nb (seed.extractLsb' 0 32 ^^^ l, seed.extractLsb' 32 32)
  let n := l.toNat % 8
  let o := 8 * nb
  let h1 := if 4 ≤ n then mmix h.1 (le32 b o) else h.1
  let o := if 4 ≤ n then o + 4 else o
  let n := if 4 ≤ n then n - 4 else n
  murmur64bFinal h1 (murmur2Tail b o n h.2)

/-- HASH2's acceptance (42_hash2.md R205). -/
def execHash2 (s : State) : Host.Outcome State Fault Refusal := .next (submitVariant .hash2 s)

/-- HASH2's digest (R205). -/
def digestHash2 (s : State) : Digest := .d32 (murmur2 s.bytes s.len s.seed32)

/-- HASH2A's acceptance (R206). -/
def execHash2A (s : State) : Host.Outcome State Fault Refusal := .next (submitVariant .hash2a s)

/-- HASH2A's digest (R206). -/
def digestHash2A (s : State) : Digest := .d32 (murmur2a s.bytes s.len s.seed32)

/-- HASH2N's acceptance (R207). -/
def execHash2N (s : State) : Host.Outcome State Fault Refusal := .next (submitVariant .hash2n s)

/-- HASH2N's digest (R207). -/
def digestHash2N (s : State) : Digest := .d32 (murmur2 s.bytes s.len s.seed32)

/-- HASH2AL's acceptance (R208). -/
def execHash2AL (s : State) : Host.Outcome State Fault Refusal := .next (submitVariant .hash2al s)

/-- HASH2AL's digest (R208). -/
def digestHash2AL (s : State) : Digest := .d32 (murmur2 s.bytes s.len s.seed32)

/-- HASH64A's acceptance (R209). -/
def execHash64A (s : State) : Host.Outcome State Fault Refusal := .next (submitVariant .hash64a s)

/-- HASH64A's digest (R209). -/
def digestHash64A (s : State) : Digest := .d64 (murmur64a s.bytes s.len s.seed64)

/-- HASH64B's acceptance (R210). -/
def execHash64B (s : State) : Host.Outcome State Fault Refusal := .next (submitVariant .hash64b s)

/-- HASH64B's digest (R210). -/
def digestHash64B (s : State) : Digest := .d64 (murmur64b s.bytes s.len s.seed64)

end Sys2Proof.Machine
end

