-- ==== Sys2Proof/Machine/Hash3.lean ====
section
/-! DEFINITION. murmur_hash3_x86_32_core, murmur_hash3_x86_128_core and murmur_hash3_x64_128_core:
HASH3X86_32, HASH3X86_128, HASH3X64_128 (43_hash3.md). -/

namespace Sys2Proof.Machine

/-- The c1, rotate, c2 step of MURMUR3_X86_32 (R240). -/
def kmix32 (k : Word) : Word := rotl32 (k * 0xCC9E2D51#32) 15 * 0x1B873593#32

/-- One block of MURMUR3_X86_32, with the accumulator tick (R240). -/
def murmur3x32Block (h k : Word) : Word :=
  let h := h ^^^ kmix32 k
  let h := rotl32 h 13
  h * 5#32 + 0xE6546B64#32

/-- BLOCK_LOOP of MURMUR3_X86_32 (R240). -/
def murmur3x32Blocks (b : List Byte) (nb : Nat) (h : Word) : Word :=
  (List.range nb).foldl (fun h i => murmur3x32Block h (le32 b (4 * i))) h

/-- TAIL of MURMUR3_X86_32 (R240): no tick. -/
def murmur3x32Tail (b : List Byte) (o t : Nat) (h : Word) : Word :=
  let k := 0#32
  let k := if 3 ≤ t then k ^^^ (byte32 b (o + 2) <<< 16) else k
  let k := if 2 ≤ t then k ^^^ (byte32 b (o + 1) <<< 8) else k
  if 1 ≤ t then
    let k := k ^^^ byte32 b o
    h ^^^ kmix32 k
  else h

/-- `MURMUR3_X86_32(B, L, SEED)` (R240). -/
def murmur3x32 (b : List Byte) (l seed : Word) : Word :=
  let nb := l.toNat / 4
  fmix32 (murmur3x32Tail b (4 * nb) (l.toNat % 4) (murmur3x32Blocks b nb seed) ^^^ l)

/-- The four lanes of x86_128 (R242, R247). -/
structure Lanes32 where
  h1 : Word
  h2 : Word
  h3 : Word
  h4 : Word
deriving DecidableEq, Repr

/-- `kmix_1` (R242). -/
def kmix1 (k : Word) : Word := rotl32 (k * 0x239B961B#32) 15 * 0xAB0E9789#32

/-- `kmix_2` (R242). -/
def kmix2 (k : Word) : Word := rotl32 (k * 0xAB0E9789#32) 16 * 0x38B34AE5#32

/-- `kmix_3` (R242). -/
def kmix3 (k : Word) : Word := rotl32 (k * 0x38B34AE5#32) 17 * 0xA1E38B93#32

/-- `kmix_4` (R242). -/
def kmix4 (k : Word) : Word := rotl32 (k * 0xA1E38B93#32) 18 * 0x239B961B#32

/-- One block of MURMUR3_X86_128 (R243): the four lanes in order, h4 reading the new h1. -/
def murmur3x86Block (h : Lanes32) (k1 k2 k3 k4 : Word) : Lanes32 :=
  let h1 := (rotl32 (h.h1 ^^^ kmix1 k1) 19 + h.h2) * 5#32 + 0x561CCD1B#32
  let h2 := (rotl32 (h.h2 ^^^ kmix2 k2) 17 + h.h3) * 5#32 + 0x0BCAA747#32
  let h3 := (rotl32 (h.h3 ^^^ kmix3 k3) 15 + h.h4) * 5#32 + 0x96CD1C35#32
  let h4 := (rotl32 (h.h4 ^^^ kmix4 k4) 13 + h1) * 5#32 + 0x32AC3B17#32
  ⟨h1, h2, h3, h4⟩

/-- BLOCK_LOOP of MURMUR3_X86_128 (R243). -/
def murmur3x86Blocks (b : List Byte) (nb : Nat) (h : Lanes32) : Lanes32 :=
  (List.range nb).foldl
    (fun h i => murmur3x86Block h (le32 b (16 * i)) (le32 b (16 * i + 4)) (le32 b (16 * i + 8))
      (le32 b (16 * i + 12))) h

/-- TAIL of MURMUR3_X86_128 (R243): the lanes from the highest down. -/
def murmur3x86Tail (b : List Byte) (o t : Nat) (h : Lanes32) : Lanes32 :=
  let k4 := 0#32
  let k4 := if 15 ≤ t then k4 ^^^ (byte32 b (o + 14) <<< 16) else k4
  let k4 := if 14 ≤ t then k4 ^^^ (byte32 b (o + 13) <<< 8) else k4
  let k4 := if 13 ≤ t then k4 ^^^ byte32 b (o + 12) else k4
  let h4 := if 13 ≤ t then h.h4 ^^^ kmix4 k4 else h.h4
  let k3 := 0#32
  let k3 := if 12 ≤ t then k3 ^^^ (byte32 b (o + 11) <<< 24) else k3
  let k3 := if 11 ≤ t then k3 ^^^ (byte32 b (o + 10) <<< 16) else k3
  let k3 := if 10 ≤ t then k3 ^^^ (byte32 b (o + 9) <<< 8) else k3
  let k3 := if 9 ≤ t then k3 ^^^ byte32 b (o + 8) else k3
  let h3 := if 9 ≤ t then h.h3 ^^^ kmix3 k3 else h.h3
  let k2 := 0#32
  let k2 := if 8 ≤ t then k2 ^^^ (byte32 b (o + 7) <<< 24) else k2
  let k2 := if 7 ≤ t then k2 ^^^ (byte32 b (o + 6) <<< 16) else k2
  let k2 := if 6 ≤ t then k2 ^^^ (byte32 b (o + 5) <<< 8) else k2
  let k2 := if 5 ≤ t then k2 ^^^ byte32 b (o + 4) else k2
  let h2 := if 5 ≤ t then h.h2 ^^^ kmix2 k2 else h.h2
  let k1 := 0#32
  let k1 := if 4 ≤ t then k1 ^^^ (byte32 b (o + 3) <<< 24) else k1
  let k1 := if 3 ≤ t then k1 ^^^ (byte32 b (o + 2) <<< 16) else k1
  let k1 := if 2 ≤ t then k1 ^^^ (byte32 b (o + 1) <<< 8) else k1
  let k1 := if 1 ≤ t then k1 ^^^ byte32 b o else k1
  let h1 := if 1 ≤ t then h.h1 ^^^ kmix1 k1 else h.h1
  ⟨h1, h2, h3, h4⟩

/-- The cross-add of MURMUR3_X86_128 (R243). -/
def crossAdd32 (h : Lanes32) : Lanes32 :=
  let h1 := h.h1 + h.h2 + h.h3 + h.h4
  ⟨h1, h.h2 + h1, h.h3 + h1, h.h4 + h1⟩

/-- FINALIZE of MURMUR3_X86_128 (R243): the length, a cross-add, fmix32, a second cross-add. -/
def murmur3x86Final (l : Word) (h : Lanes32) : Lanes32 :=
  let h := crossAdd32 ⟨h.h1 ^^^ l, h.h2 ^^^ l, h.h3 ^^^ l, h.h4 ^^^ l⟩
  crossAdd32 ⟨fmix32 h.h1, fmix32 h.h2, fmix32 h.h3, fmix32 h.h4⟩

/-- The lanes of MURMUR3_X86_128 after FINALIZE (R243). -/
def murmur3x86Lanes (b : List Byte) (l seed : Word) : Lanes32 :=
  let nb := l.toNat / 16
  murmur3x86Final l
    (murmur3x86Tail b (16 * nb) (l.toNat % 16) (murmur3x86Blocks b nb ⟨seed, seed, seed, seed⟩))

/-- `MURMUR3_X86_128(B, L, SEED)` (R243): the lanes serialized little-endian. -/
def murmur3x86 (b : List Byte) (l seed : Word) : List Byte :=
  let h := murmur3x86Lanes b l seed
  le32bytes h.h1 ++ le32bytes h.h2 ++ le32bytes h.h3 ++ le32bytes h.h4

/-- The two lanes of x64_128 (R247). -/
structure Lanes64 where
  h1 : DWord
  h2 : DWord
deriving DecidableEq, Repr

/-- `kmixA` (R245). -/
def kmixA (k : DWord) : DWord := rotl64 (k * 0x87C37B91114253D5#64) 31 * 0x4CF5AD432745937F#64

/-- `kmixB` (R245). -/
def kmixB (k : DWord) : DWord := rotl64 (k * 0x4CF5AD432745937F#64) 33 * 0x87C37B91114253D5#64

/-- One block of MURMUR3_X64_128 (R245): h2's line reads the new h1. -/
def murmur3x64Block (h : Lanes64) (k1 k2 : DWord) : Lanes64 :=
  let h1 := (rotl64 (h.h1 ^^^ kmixA k1) 27 + h.h2) * 5#64 + 0x52DCE729#64
  let h2 := (rotl64 (h.h2 ^^^ kmixB k2) 31 + h1) * 5#64 + 0x38495AB5#64
  ⟨h1, h2⟩

/-- BLOCK_LOOP of MURMUR3_X64_128 (R245). -/
def murmur3x64Blocks (b : List Byte) (nb : Nat) (h : Lanes64) : Lanes64 :=
  (List.range nb).foldl (fun h i => murmur3x64Block h (le64 b (16 * i)) (le64 b (16 * i + 8))) h

/-- The tail bytes of one x64_128 lane (R245): for each q of `qs`, if t ≥ q + 1, byte o + q shifted left
by 8 * (q - first). -/
def tailWord64 (b : List Byte) (o t first : Nat) (qs : List Nat) : DWord :=
  qs.foldl (fun k q => if q + 1 ≤ t then k ^^^ (byte64 b (o + q) <<< (8 * (q - first))) else k) 0#64

/-- TAIL of MURMUR3_X64_128 (R245): lane 2, then lane 1. -/
def murmur3x64Tail (b : List Byte) (o t : Nat) (h : Lanes64) : Lanes64 :=
  let k2 := tailWord64 b o t 8 [14, 13, 12, 11, 10, 9, 8]
  let h2 := if 9 ≤ t then h.h2 ^^^ kmixB k2 else h.h2
  let k1 := tailWord64 b o t 0 [7, 6, 5, 4, 3, 2, 1, 0]
  let h1 := if 1 ≤ t then h.h1 ^^^ kmixA k1 else h.h1
  ⟨h1, h2⟩

/-- The cross-add of MURMUR3_X64_128 (R245). -/
def crossAdd64 (h : Lanes64) : Lanes64 :=
  let h1 := h.h1 + h.h2
  ⟨h1, h.h2 + h1⟩

/-- FINALIZE of MURMUR3_X64_128 (R245). -/
def murmur3x64Final (l : Word) (h : Lanes64) : Lanes64 :=
  let h := crossAdd64 ⟨h.h1 ^^^ l.setWidth 64, h.h2 ^^^ l.setWidth 64⟩
  crossAdd64 ⟨fmix64 h.h1, fmix64 h.h2⟩

/-- The lanes of MURMUR3_X64_128 after FINALIZE (R245): the seed is zero-extended into both. -/
def murmur3x64Lanes (b : List Byte) (l seed : Word) : Lanes64 :=
  let nb := l.toNat / 16
  murmur3x64Final l
    (murmur3x64Tail b (16 * nb) (l.toNat % 16)
      (murmur3x64Blocks b nb ⟨seed.setWidth 64, seed.setWidth 64⟩))

/-- `MURMUR3_X64_128(B, L, SEED)` (R245): the lanes serialized little-endian. -/
def murmur3x64 (b : List Byte) (l seed : Word) : List Byte :=
  let h := murmur3x64Lanes b l seed
  le64bytes h.h1 ++ le64bytes h.h2

/-- HASH3X86_32's acceptance (43_hash3.md R241). -/
def execHash3X86_32 (s : State) : Host.Outcome State Fault Refusal :=
  .next (submitVariant .hash3x86_32 s)

/-- HASH3X86_32's digest (R241). -/
def digestHash3X86_32 (s : State) : Digest := .d32 (murmur3x32 s.bytes s.len s.seed32)

/-- HASH3X86_128's acceptance (R244). -/
def execHash3X86_128 (s : State) : Host.Outcome State Fault Refusal :=
  .next (submitVariant .hash3x86_128 s)

/-- HASH3X86_128's digest (R244). -/
def digestHash3X86_128 (s : State) : Digest := .d128 (murmur3x86 s.bytes s.len s.seed32)

/-- HASH3X64_128's acceptance (R246). -/
def execHash3X64_128 (s : State) : Host.Outcome State Fault Refusal :=
  .next (submitVariant .hash3x64_128 s)

/-- HASH3X64_128's digest (R246). -/
def digestHash3X64_128 (s : State) : Digest := .d128 (murmur3x64 s.bytes s.len s.seed32)

end Sys2Proof.Machine
end

