-- ==== Sys2Proof/Machine/Reserved.lean ====
section
/-! DEFINITION. The reserved OPCs (30_encoding.md R114): acceptance completes with ERR_OPC
(60_exceptions.md R283). -/

namespace Sys2Proof.Machine

/-- OPC 0x0 (R283). -/
def execReserved0x0 (s : State) : Host.Outcome State Fault Refusal := .next (submitReserved 0x0#4 s)

/-- OPC 0xC (R283). -/
def execReserved0xC (s : State) : Host.Outcome State Fault Refusal := .next (submitReserved 0xC#4 s)

/-- OPC 0xD (R283). -/
def execReserved0xD (s : State) : Host.Outcome State Fault Refusal := .next (submitReserved 0xD#4 s)

/-- OPC 0xE (R283). -/
def execReserved0xE (s : State) : Host.Outcome State Fault Refusal := .next (submitReserved 0xE#4 s)

/-- OPC 0xF (R283). -/
def execReserved0xF (s : State) : Host.Outcome State Fault Refusal := .next (submitReserved 0xF#4 s)

end Sys2Proof.Machine
end

