-- ==== Sys2Proof/Machine/Dispatch.lean ====
section
/-! DEFINITION. `exec`: what a command word written to CMD does in the step of that write
(40_operation.md R141). The ignored bits reach no meaning (30_encoding.md R111). -/

namespace Sys2Proof.Machine

def exec (i : Instr) (s : State) : Host.Outcome State Fault Refusal :=
  match i with
  | .hash1 _ => Sys2Proof.Machine.execHash1 s
  | .hash1a _ => Sys2Proof.Machine.execHash1A s
  | .hash2 _ => Sys2Proof.Machine.execHash2 s
  | .hash2a _ => Sys2Proof.Machine.execHash2A s
  | .hash2n _ => Sys2Proof.Machine.execHash2N s
  | .hash2al _ => Sys2Proof.Machine.execHash2AL s
  | .hash64a _ => Sys2Proof.Machine.execHash64A s
  | .hash64b _ => Sys2Proof.Machine.execHash64B s
  | .hash3x86_32 _ => Sys2Proof.Machine.execHash3X86_32 s
  | .hash3x86_128 _ => Sys2Proof.Machine.execHash3X86_128 s
  | .hash3x64_128 _ => Sys2Proof.Machine.execHash3X64_128 s
  | .reserved0x0 _ => Sys2Proof.Machine.execReserved0x0 s
  | .reserved0xC _ => Sys2Proof.Machine.execReserved0xC s
  | .reserved0xD _ => Sys2Proof.Machine.execReserved0xD s
  | .reserved0xE _ => Sys2Proof.Machine.execReserved0xE s
  | .reserved0xF _ => Sys2Proof.Machine.execReserved0xF s

end Sys2Proof.Machine
end

