-- ==== Sys2Proof/Machine/Engine.lean ====
section
/-! DEFINITION. The engine's own steps: reads and completion (40_operation.md R140, R150, R154, R155). -/

namespace Sys2Proof.Machine

/-- `D_OPC(B, L, SEED)` of the running command, from ENG.BYTES and the operand registers (R154). -/
def digestOf (v : Variant) (s : State) : Digest :=
  match v with
  | .hash1 => digestHash1 s
  | .hash1a => digestHash1A s
  | .hash2 => digestHash2 s
  | .hash2a => digestHash2A s
  | .hash2n => digestHash2N s
  | .hash2al => digestHash2AL s
  | .hash64a => digestHash64A s
  | .hash64b => digestHash64B s
  | .hash3x86_32 => digestHash3X86_32 s
  | .hash3x86_128 => digestHash3X86_128 s
  | .hash3x64_128 => digestHash3X64_128 s

/-- The completion step (R155). A reserved OPC never runs (R143), so it has no digest (log 11). -/
def completeStep (s : State) : Host.Outcome State Fault Refusal :=
  match variantOfOpc s.cmdOpc with
  | some v => .next (complete (digestOf v s) s)
  | none => .fault (.runningReservedOpc s.cmdOpc)

/-- The engine's next step: none in IDLE (R140, 60_exceptions.md R303), a read while the plan holds one
(R150), then the completion (R155). -/
def engineStep (s : State) : Host.Outcome State Fault Refusal :=
  match s.phase, s.plan with
  | .idle, _ => .next s
  | .run, r :: rest => readStep r rest s
  | .run, [] => completeStep s

/-- `n` engine steps in a row (R158). -/
def engineRun : Nat → State → Host.Outcome State Fault Refusal
  | 0, s => .next s
  | n + 1, s =>
    match engineStep s with
    | .next t => engineRun n t
    | .fault r => .fault r
    | .refused r => .refused r

end Sys2Proof.Machine
end

