-- ==== Sys2Proof/Machine/HostPort.lean ====
section
/-! DEFINITION. The register window (10_state.md R31 to R54) and what each agent's step does
(20_memory.md R92): host reads and writes, the waits of the host notation (30_encoding.md R119), engine
steps, other agents' writes, the hard reset. -/

namespace Sys2Proof.Machine

/-- The registers of the window (R35). -/
inductive Reg where
  | id
  | version
  | caps
  | ctrl
  | status
  | cmd
  | len
  | srcLo
  | srcHi
  | seedLo
  | seedHi
  | dig0
  | dig1
  | dig2
  | dig3
deriving DecidableEq, Repr

/-- The register map (R35): the offset of each register. -/
def Reg.offset : Reg → Nat
  | .id => 0x00
  | .version => 0x04
  | .caps => 0x08
  | .ctrl => 0x0C
  | .status => 0x10
  | .cmd => 0x14
  | .len => 0x18
  | .srcLo => 0x20
  | .srcHi => 0x24
  | .seedLo => 0x28
  | .seedHi => 0x2C
  | .dig0 => 0x30
  | .dig1 => 0x34
  | .dig2 => 0x38
  | .dig3 => 0x3C

/-- Every register (R35). -/
def regList : List Reg :=
  [.id, .version, .caps, .ctrl, .status, .cmd, .len, .srcLo, .srcHi, .seedLo, .seedHi, .dig0, .dig1,
   .dig2, .dig3]

/-- The register at an offset; none where the offset is reserved (R33, R35). -/
def regAt (offset : Nat) : Option Reg := regList.find? (fun r => r.offset == offset)

/-- The value a register reads as (R40 to R54). SRC_HI is reserved when P_ADDR_W = 32 (R52). -/
def readReg (r : Reg) (s : State) : Word :=
  match r with
  | .id => 0x4D55524D#32
  | .version => 0x00010000#32
  | .caps => capsWord s.params
  | .ctrl => ctrlWord s
  | .status => statusWord s
  | .cmd => cmdWord s
  | .len => s.len
  | .srcLo => s.srcLo
  | .srcHi =>
    match s.params.addrW with
    | .w64 => s.srcHi
    | .w32 => 0#32
  | .seedLo => s.seedLo
  | .seedHi => s.seedHi
  | .dig0 => s.dig0
  | .dig1 => s.dig1
  | .dig2 => s.dig2
  | .dig3 => s.dig3

/-- A write to an operand register: dropped while a command runs (R36), else `t`. -/
def guardedWrite (t s : State) : State := if s.busy then dropWrite s else t

/-- A 32-bit write to a register (R34, R36, R43 to R54). A write to CMD is the command it decodes to
(R50, 30_encoding.md R111). -/
def writeReg (r : Reg) (v : Word) (s : State) : Host.Outcome State Fault Refusal :=
  match r with
  | .id => .next s
  | .version => .next s
  | .caps => .next s
  | .ctrl => .next (writeCtrl v s)
  | .status => .next (writeStatus v s)
  | .cmd => exec (decodeWord v) s
  | .len => .next (guardedWrite { s with len := v } s)
  | .srcLo => .next (guardedWrite { s with srcLo := v } s)
  | .srcHi =>
    match s.params.addrW with
    | .w64 => .next (guardedWrite { s with srcHi := v } s)
    | .w32 => .next s
  | .seedLo => .next (guardedWrite { s with seedLo := v } s)
  | .seedHi => .next (guardedWrite { s with seedHi := v } s)
  | .dig0 => .next s
  | .dig1 => .next s
  | .dig2 => .next s
  | .dig3 => .next s

/-- The offset of a bus address in the instance's window, if it lies there (R31; log 9). -/
def windowOffset (p : Params) (addr : Nat) : Option Nat :=
  if p.base ≤ addr && decide (addr < p.base + 256) then some (addr - p.base) else none

/-- The one kind of access the window defines (R32): 32 bits at a multiple of 4. -/
def accessOk (offset size : Nat) : Bool := size == 4 && offset % 4 == 0

/-- A host read (R32, R33, R37). -/
def hostRead (addr size : Nat) (s : State) : Host.Outcome State Fault Refusal :=
  match windowOffset s.params addr with
  | none => .next { s with resp := .notSelected }
  | some o =>
    if accessOk o size then
      match regAt o with
      | some r => .next { s with resp := .data (readReg r s) }
      | none => .next { s with resp := .data 0#32 }
    else .next { s with resp := .error }

/-- A host write (R32, R33, R34, R37). -/
def hostWrite (addr size : Nat) (v : Word) (s : State) : Host.Outcome State Fault Refusal :=
  match windowOffset s.params addr with
  | none => .next { s with resp := .notSelected }
  | some o =>
    if accessOk o size then
      match regAt o with
      | some r => writeReg r v { s with resp := .written }
      | none => .next { s with resp := .written }
    else .next { s with resp := .error }

/-- WAIT DONE (30_encoding.md R119): one read of STATUS. While DONE is 0 the engine gets the next step and
the host polls again (log 16). -/
def hostWaitDone (s : State) : Host.Outcome State Fault Refusal :=
  let t := { s with resp := .data (statusWord s) }
  if s.done then .next t else .next { t with script := .engine :: .waitDone :: t.script }

/-- WAIT IRQ (R119): no bus transaction. While irq is 0 the engine gets the next step (log 16). -/
def hostWaitIrq (s : State) : Host.Outcome State Fault Refusal :=
  if irq s then .next s else .next { s with script := .engine :: .waitIrq :: s.script }

/-- One agent's step (20_memory.md R92, 70_reset_and_hazards.md R320), already taken off the script. -/
def runEvent (e : Event) (s : State) : Host.Outcome State Fault Refusal :=
  match e with
  | .hostRead addr size => hostRead addr size s
  | .hostWrite addr size v => hostWrite addr size v s
  | .waitDone => hostWaitDone s
  | .waitIrq => hostWaitIrq s
  | .engine => engineStep s
  | .memWrite a data => agentWrite a data s
  | .hardReset => .next (resetCore s)

/-- The step the script puts next; with nothing pending the engine moves (40_operation.md R158; log 6). -/
def nextStep (s : State) : Host.Outcome State Fault Refusal :=
  match s.script with
  | [] => engineStep s
  | e :: rest => runEvent e { s with script := rest }

/-- The host write that carries a command word (10_state.md R50). -/
def cmdWrite (p : Params) (w : Word) : Event := .hostWrite (p.base + Reg.cmd.offset) 4 w

/-- Put a command word where the next step takes it: the host's write to CMD, first in the script (log 7). -/
def putCommand (s : State) (w : Word) : State := { s with script := cmdWrite s.params w :: s.script }

end Sys2Proof.Machine
end

