-- ==== Sys2Proof/Machine/HostNotation.lean ====
section
/-! DEFINITION. The host-side notation (30_encoding.md R119, R120) as the steps it stands for. -/

namespace Sys2Proof.Machine

/-- `WR <reg>, <value>` (R119). -/
def wr (p : Params) (r : Reg) (v : Word) : Event := .hostWrite (p.base + r.offset) 4 v

/-- `RD <reg>` (R119). -/
def rd (p : Params) (r : Reg) : Event := .hostRead (p.base + r.offset) 4

/-- `HASH <m>, src=<a>, len=<l>, seed=<s>` (R120): the operand writes, SRC_HI left out when P_ADDR_W = 32,
then CMD. -/
def hashProgram (p : Params) (m : Variant) (a : DWord) (l : Word) (seed : DWord) : List Event :=
  [wr p .srcLo (a.extractLsb' 0 32)] ++
  (match p.addrW with
   | .w64 => [wr p .srcHi (a.extractLsb' 32 32)]
   | .w32 => []) ++
  [wr p .len l, wr p .seedLo (seed.extractLsb' 0 32), wr p .seedHi (seed.extractLsb' 32 32),
   wr p .cmd (m.opc.setWidth 32)]

/-- `CLRDONE` (R120). -/
def clrDone (p : Params) : Event := wr p .status 0x00000002#32

/-- `CLRDROP` (R120). -/
def clrDrop (p : Params) : Event := wr p .status 0x00000100#32

/-- `IRQON` (R120). -/
def irqOn (p : Params) : Event := wr p .ctrl 0x00000001#32

/-- `IRQOFF` (R120). -/
def irqOff (p : Params) : Event := wr p .ctrl 0x00000000#32

/-- `SRST` (R120). -/
def srst (p : Params) : Event := wr p .ctrl 0x00000002#32

end Sys2Proof.Machine
end

