-- ==== Sys2Proof/Machine/Step.lean ====
section
/-! DEFINITION. One step of the machine, and how a command word is placed for the next step. -/

namespace Sys2Proof.Machine

/-- One step: some agent's, or the engine's (20_memory.md R92). -/
def step (s : State) : Host.Outcome State Fault Refusal := nextStep s

/-- `s` with the command word in the low `nbits` bits of `w` as the host's next write to CMD (log 7). -/
def State.withFetchWord (s : State) (nbits w : Nat) : State :=
  putCommand s (BitVec.ofNat 32 (w % 2 ^ nbits))

end Sys2Proof.Machine
end

