-- ==== Sys2Proof/Safety.lean ====
section
/-! DEFINITION. The terms claims use: when a command is accepted, what bytes it digests, the invariant
every step keeps, and what a safe step is. -/

namespace Sys2Proof.Machine

/-- The five acceptance checks pass (60_exceptions.md R290) for an OPC in 1 to 11, spelled out: R284, R285,
R286, R287. -/
structure Accepts (p : Params) (v : Variant) (src l : Nat) : Prop where
  implemented : implements p v = true
  length : l < 2 ^ 31
  range : src + l ≤ spaceSize p
  aligned : p.misalignedRd = true ∨ wordCount v src l = 0 ∨ src % (wordSize v).bytes = 0

/-- The bytes of the read space at `src` to `src + l - 1` (00_scope.md R15). -/
def memBytes (m : List Host.Cell) (src l : Nat) : List Byte :=
  (List.range l).map (fun i => memByte m (src + i))

/-- No location of the range has side effects (20_memory.md R89). -/
def PlainRange (p : Params) (src l : Nat) : Prop := ∀ i < l, hasSideEffect p (src + i) = false

/-- No read of the list answers BusError (20_memory.md R88). -/
def BusOk (p : Params) (reads : List ReadReq) : Prop := ∀ r ∈ reads, busFails p r = false

/-- The addresses a list of reads takes bytes from, in order (20_memory.md R85, R87). -/
def readAddrs (reads : List ReadReq) : List Nat :=
  reads.flatMap (fun r => (List.range r.size.bytes).map (fun i => r.addr + i))

/-- How many bytes a list of reads returns. -/
def readLen (reads : List ReadReq) : Nat := (reads.map (fun r => r.size.bytes)).sum

/-- The reads planned for the command whose variant and operands `s` holds (40_operation.md R144). -/
def commandPlan (v : Variant) (s : State) : List ReadReq := planOf s.params v s.src s.inputLen

/-- DIG0 to DIG3 are all 0. -/
abbrev DigZero (s : State) : Prop := s.dig0 = 0#32 ∧ s.dig1 = 0#32 ∧ s.dig2 = 0#32 ∧ s.dig3 = 0#32

/-- What holds while a command runs: DONE, ERRCODE and DIG are 0 (10_state.md R46, R54; 40_operation.md
R142), the OPC is a variant whose checks passed (R143), and the plan is what is left of Plan(OPC, SRC, L)
after the reads whose bytes ENG.BYTES holds (R147, R150). -/
structure RunOk (s : State) : Prop where
  notDone : s.done = false
  noError : s.errcode = 0#4
  digZero : DigZero s
  progress : ∃ v, variantOfOpc s.cmdOpc = some v ∧ Accepts s.params v s.src s.inputLen ∧
    ∃ past, commandPlan v s = past ++ s.plan ∧ s.bytes.length = readLen past

/-- Every write another agent is about to make lies in the read space (20_memory.md R81). -/
def ScriptInSpace (p : Params) (script : List Event) : Prop :=
  ∀ a data, Event.memWrite a data ∈ script → a + data.length ≤ spaceSize p

/-- The invariant of the machine. -/
structure CoreInv (s : State) : Prop where
  /-- Memory keeps its canonical form. -/
  memCanonical : memWf s.mem = true
  /-- Memory lists only addresses of the read space (20_memory.md R81). -/
  memInSpace : ∀ c ∈ s.mem, c.1 < spaceSize s.params
  /-- In IDLE, ENG.PLAN and ENG.BYTES are empty (10_state.md R61). -/
  idleEmpty : s.phase = .idle → s.plan = [] ∧ s.bytes = []
  /-- While a command runs. -/
  running : s.phase = .run → RunOk s
  /-- Codes 7 to 15 are never produced (60_exceptions.md R289). -/
  errcodeLegal : s.errcode.toNat ≤ 6
  /-- An error completion leaves DIG0 to DIG3 at 0 (60_exceptions.md R292). -/
  errorDigZero : s.errcode ≠ 0#4 → DigZero s
  /-- SRC_HI is reserved when P_ADDR_W = 32 (10_state.md R33, R52). -/
  srcHiReserved : s.params.addrW = .w32 → s.srcHi = 0#32
  /-- The other agents write only where memory exists. -/
  scriptInSpace : ScriptInSpace s.params s.script

/-- A safe step: the machine goes on. -/
def Safe (s : State) : Prop := ∃ t, step s = .next t

end Sys2Proof.Machine
end

