-- ==== Sys2Proof/Certificates/Slice0/Obligations.lean ====
section
/-! DEFINITION. The statements for the provers, from the numbered rules of spec/. A next state written
`{ s with … }` is also the frame: every register, flag, memory byte and other field not named is as before. -/

namespace Sys2Proof.Machine

/-- The state a command leaves when acceptance ends it with an error code (40_operation.md R142, R143;
60_exceptions.md R282). -/
def endedAtAcceptance (opc code : BitVec 4) (s : State) : State :=
  { s with
    cmdOpc := opc
    done := true
    errcode := code
    dig0 := 0#32
    dig1 := 0#32
    dig2 := 0#32
    dig3 := 0#32
    phase := .idle
    plan := []
    bytes := [] }

/-- The state a command leaves when acceptance starts it with these reads (R142, R144). -/
def startedWith (opc : BitVec 4) (reads : List ReadReq) (s : State) : State :=
  { s with
    cmdOpc := opc
    done := false
    errcode := 0#4
    dig0 := 0#32
    dig1 := 0#32
    dig2 := 0#32
    dig3 := 0#32
    phase := .run
    plan := reads
    bytes := [] }

/-- The state a completion with success leaves (R155): the four digest registers at `d`. -/
def completedWith (d : Word × Word × Word × Word) (s : State) : State :=
  { s with
    done := true
    errcode := 0#4
    dig0 := d.1
    dig1 := d.2.1
    dig2 := d.2.2.1
    dig3 := d.2.2.2
    phase := .idle
    plan := []
    bytes := [] }

/-- `s` with every register at its reset value and the engine idle and empty (70_reset_and_hazards.md R321;
ID, VERSION and CAPS are hardwired, irq and STATUS.ERR follow the fields). -/
def afterReset (s : State) : State :=
  { s with
    ie := false
    done := false
    errcode := 0#4
    drop := false
    cmdOpc := 0#4
    len := 0#32
    srcLo := 0#32
    srcHi := 0#32
    seedLo := 0#32
    seedHi := 0#32
    dig0 := 0#32
    dig1 := 0#32
    dig2 := 0#32
    dig3 := 0#32
    phase := .idle
    plan := []
    bytes := [] }

/-- From every idle state in which the command's checks pass, none of its reads fails and its range has no
side effects, the command is accepted, and its engine steps (one per read of its plan, then the completion)
leave the digest of the bytes memory holds at SRC to SRC + L - 1, everything else as before. -/
def RunsTo (i : Instr) (v : Variant) (dig : List Byte → State → Word × Word × Word × Word) : Prop :=
  ∀ s : State, s.phase = .idle → Accepts s.params v s.src s.inputLen →
    BusOk s.params (commandPlan v s) → PlainRange s.params s.src s.inputLen →
    ∃ t, exec i s = .next t ∧ t.phase = .run ∧
      engineRun ((commandPlan v s).length + 1) t =
        .next { completedWith (dig (memBytes s.mem s.src s.inputLen) s) s with
          cmdOpc := v.opc
          readCount := s.readCount + (commandPlan v s).length }

/-- The t bytes of the input from offset o: the tail (40_operation.md R162). -/
def tailBytes (b : List Byte) (o t : Nat) : List Byte := (b.drop o).take t

/-- A 32-bit digest in DIG0, the rest 0 (R156). -/
def digits32 (d : Word) : Word × Word × Word × Word := (d, 0#32, 0#32, 0#32)

/-- A 64-bit digest in DIG1:DIG0, the rest 0 (R156). -/
def digits64 (d : DWord) : Word × Word × Word × Word :=
  (d.extractLsb' 0 32, d.extractLsb' 32 32, 0#32, 0#32)

/-- The next host access is a 32-bit write of `v` at offset `o` of the window. -/
def Writes (s : State) (o : Nat) (v : Word) (rest : List Event) : Prop :=
  s.script = .hostWrite (s.params.base + o) 4 v :: rest

/-- The next host access is a 32-bit read at offset `o` of the window. -/
def Reads (s : State) (o : Nat) (rest : List Event) : Prop :=
  s.script = .hostRead (s.params.base + o) 4 :: rest

/-- The word reads of size `z` from SRC, then byte reads up to L (R147). -/
def wordsThenBytes (z : ReadSize) (nw src l : Nat) : List ReadReq :=
  (List.range nw).map (fun j => ⟨src + z.bytes * j, z⟩) ++
    (List.range (l - z.bytes * nw)).map (fun i => ⟨src + (z.bytes * nw + i), .one⟩)

end Sys2Proof.Machine

open Sys2Proof Sys2Proof.Machine

/-! Encoding -/

/-- 30_encoding.md R111, R113, R114: words written out from the opcode map. -/
def Obligations.SpecWordsDecodeToTheirCommands : Prop :=
  decodeWord 0x00000009#32 = .hash3x86_32 0#28 ∧
  decodeWord 0xFFFFFFF9#32 = .hash3x86_32 0xFFFFFFF#28 ∧
  decodeWord 0x00000001#32 = .hash1 0#28 ∧
  decodeWord 0x80000002#32 = .hash1a 0x8000000#28 ∧
  decodeWord 0x00000006#32 = .hash2al 0#28 ∧
  decodeWord 0x00000017#32 = .hash64a 1#28 ∧
  decodeWord 0x0000000B#32 = .hash3x64_128 0#28 ∧
  decodeWord 0x00000000#32 = .reserved0x0 0#28 ∧
  decodeWord 0x0000000C#32 = .reserved0xC 0#28

/-- Every command, with every value of its ignored bits, comes back from its word, its bytes and its table
number (R110, R112). -/
def Obligations.DecodeOfEncodeIsTheCommand : Prop :=
  ∀ i : Instr, decodeWord (encode i) = i ∧ decodeBytes (encodeBytes i) = .ok i ∧
    decodeTableWord 32 (encode i).toNat = some i

/-- Every word is the encoding of what it decodes to, and nothing but four bytes is a command (R111, R112). -/
def Obligations.EncodeOfDecodeIsTheWord : Prop :=
  (∀ w : Word, encode (decodeWord w) = w) ∧
  (∀ bs : List Byte, bs.length ≠ 4 → decodeBytes bs = .error (.notOneWord bs.length))

/-- R111: bits [31:4] never change what a command does, and CMD reads back as the accepted OPC with bits
[31:4] at 0. -/
def Obligations.IgnoredBitsNeverChangeTheCommand : Prop :=
  (∀ (w w' : Word) (s : State), w.extractLsb' 0 4 = w'.extractLsb' 0 4 →
    exec (decodeWord w) s = exec (decodeWord w') s) ∧
  (∀ (w : Word) (s t : State), s.phase = .idle → exec (decodeWord w) s = .next t →
    readReg .cmd t = w &&& 0xF#32)

/-- A step in which the host writes a word to CMD is `exec` of the command the word decodes to, with that
access taken off the script and a normal response on the bus (log 6, 7, 8). -/
def Obligations.StepRunsTheDecodedCommand : Prop :=
  (∀ (s : State) (w : Word) (rest : List Event), Writes s 0x14 w rest →
    step s = exec (decodeWord w) { s with script := rest, resp := .written }) ∧
  (∀ (s : State) (nbits w : Nat) (i : Instr), decodeTableWord nbits w = some i →
    step (s.withFetchWord nbits w) = exec i { s with resp := .written })

/-! Acceptance -/

/-- 40_operation.md R142, R144: each of the eleven variant commands, accepted. -/
def Obligations.VariantCommandIsAccepted : Prop :=
  ∀ (i : Instr) (v : Variant) (s : State), variantOfOpc i.opc = some v → s.phase = .idle →
    Accepts s.params v s.src s.inputLen →
    exec i s = .next (startedWith i.opc (planOf s.params v s.src s.inputLen) s)

/-- 60_exceptions.md R283: each of the five reserved commands completes with ERR_OPC. -/
def Obligations.ReservedCommandEndsWithErrOpc : Prop :=
  ∀ (i : Instr) (s : State), i.opc = 0x0#4 ∨ i.opc = 0xC#4 ∨ i.opc = 0xD#4 ∨ i.opc = 0xE#4 ∨ i.opc = 0xF#4 →
    s.phase = .idle → exec i s = .next (endedAtAcceptance i.opc 1#4 s)

/-- 60_exceptions.md R290 with R284 to R287: the first check that fails ends the command in its own
acceptance step. -/
def Obligations.FirstFailingCheckEndsTheCommand : Prop :=
  ∀ (i : Instr) (v : Variant) (s : State), variantOfOpc i.opc = some v → s.phase = .idle →
    (implements s.params v = false → exec i s = .next (endedAtAcceptance i.opc 2#4 s)) ∧
    (implements s.params v = true → 2 ^ 31 ≤ s.inputLen →
      exec i s = .next (endedAtAcceptance i.opc 3#4 s)) ∧
    (implements s.params v = true → s.inputLen < 2 ^ 31 → spaceSize s.params < s.src + s.inputLen →
      exec i s = .next (endedAtAcceptance i.opc 4#4 s)) ∧
    (implements s.params v = true → s.inputLen < 2 ^ 31 → s.src + s.inputLen ≤ spaceSize s.params →
      s.params.misalignedRd = false → 0 < wordCount v s.src s.inputLen →
      s.src % (wordSize v).bytes ≠ 0 → exec i s = .next (endedAtAcceptance i.opc 5#4 s))

/-- 60_exceptions.md R287: no ERR_ALIGN for HASH1A, HASH2AL and HASH2N, nor where the port takes
misaligned reads. -/
def Obligations.AlignedCommandsNeverEndWithErrAlign : Prop :=
  ∀ (i : Instr) (v : Variant) (s t : State), variantOfOpc i.opc = some v → s.phase = .idle →
    v ∈ [.hash1a, .hash2al, .hash2n] ∨ s.params.misalignedRd = true →
    exec i s = .next t → t.errcode ≠ 5#4

/-- 40_operation.md R141, 10_state.md R36: a command written while BUSY = 1, whichever of the sixteen,
only sets DROP. -/
def Obligations.CommandWhileBusyOnlySetsDrop : Prop :=
  ∀ (i : Instr) (s : State), s.phase = .run → exec i s = .next { s with drop := true }

/-- 40_operation.md R143: the acceptance checks never look at the memory; the other memory gives the same
outcome. -/
def Obligations.AcceptanceNeverLooksAtMemory : Prop :=
  ∀ (i : Instr) (s t : State) (m : List Host.Cell), exec i s = .next t →
    t.mem = s.mem ∧ exec i { s with mem := m } = .next { t with mem := m }

/-- What no command write changes, whichever of the sixteen (60_exceptions.md R282, 10_state.md R64,
20_memory.md R84), and that it always answers a next state. -/
def Obligations.CommandFrame : Prop :=
  ∀ (i : Instr) (s : State), ∃ t, exec i s = .next t ∧
    t.len = s.len ∧ t.srcLo = s.srcLo ∧ t.srcHi = s.srcHi ∧ t.seedLo = s.seedLo ∧ t.seedHi = s.seedHi ∧
    t.ie = s.ie ∧ t.params = s.params ∧ t.script = s.script ∧ t.resp = s.resp ∧
    t.readCount = s.readCount ∧ (∀ a, memByte t.mem a = memByte s.mem a) ∧
    (s.phase = .idle → t.drop = s.drop ∧ t.cmdOpc = i.opc ∧ DigZero t)

/-! Read plans and operands -/

/-- 40_operation.md R146, R147: the plan of each discipline, where the range check has passed. -/
def Obligations.PlanFollowsTheDiscipline : Prop :=
  ∀ (p : Params) (src l : Nat), src + l ≤ spaceSize p →
    (∀ v ∈ [Variant.hash1, .hash2, .hash2a, .hash64b, .hash3x86_32],
      planOf p v src l = wordsThenBytes .four (l / 4) src l) ∧
    planOf p .hash3x86_128 src l = wordsThenBytes .four (4 * (l / 16)) src l ∧
    planOf p .hash64a src l = wordsThenBytes .eight (l / 8) src l ∧
    planOf p .hash3x64_128 src l = wordsThenBytes .eight (2 * (l / 16)) src l ∧
    (∀ v ∈ [Variant.hash1a, .hash2al],
      planOf p v src l = wordsThenBytes .four (if src % 4 = 0 then l / 4 else 0) src l) ∧
    planOf p .hash2n src l = (List.range l).map (fun i => ⟨src + i, .one⟩)

/-- 40_operation.md R148: the plan covers the range once and in ascending order, its length, where its
word reads lie, and when it holds a misaligned one. -/
def Obligations.PlanReadsEachByteOnceInOrder : Prop :=
  ∀ (p : Params) (v : Variant) (src l : Nat), src + l ≤ spaceSize p →
    readAddrs (planOf p v src l) = (List.range l).map (fun i => src + i) ∧
    (planOf p v src l).length =
      wordCount v src l + (l - (wordSize v).bytes * wordCount v src l) ∧
    (l = 0 → planOf p v src l = []) ∧
    (∀ r ∈ planOf p v src l, r.size ≠ .one →
      r.size = wordSize v ∧ r.addr % (wordSize v).bytes = src % (wordSize v).bytes) ∧
    ((∃ r ∈ planOf p v src l, r.addr % r.size.bytes ≠ 0) ↔
      0 < wordCount v src l ∧ src % (wordSize v).bytes ≠ 0) ∧
    (v ∈ [.hash1a, .hash2al, .hash2n] → ∀ r ∈ planOf p v src l, r.addr % r.size.bytes = 0)

/-- 20_memory.md R82: byte j of a word read is bits [8j+7:8j] of its value. -/
def Obligations.WordReadsAreLittleEndian : Prop :=
  ∀ (b : List Byte) (i : Nat),
    (∀ j < 4, (le32 b i).extractLsb' (8 * j) 8 = byteAt b (i + j)) ∧
    (∀ j < 8, (le64 b i).extractLsb' (8 * j) 8 = byteAt b (i + j))

/-! Engine steps -/

/-- 40_operation.md R150: a read step that gets data appends the bytes at its addresses, in address order;
the byte of a side-effect location (20_memory.md R89) is the free value. -/
def Obligations.ReadStepAppendsTheBytesRead : Prop :=
  ∀ (s : State) (r : ReadReq) (rest : List ReadReq), s.phase = .run → s.plan = r :: rest →
    r.addr + r.size.bytes ≤ spaceSize s.params →
    s.params.misalignedRd = true ∨ r.addr % r.size.bytes = 0 → busFails s.params r = false →
    ∃ data : List Byte, data.length = r.size.bytes ∧
      (∀ i < r.size.bytes, data[i]? = some (if hasSideEffect s.params (r.addr + i)
        then Config.sideEffectByte s.readCount (r.addr + i) else memByte s.mem (r.addr + i))) ∧
      engineStep s = .next { s with
        plan := rest
        bytes := s.bytes ++ data
        readCount := s.readCount + 1 }

/-- 60_exceptions.md R288, 40_operation.md R151: a read that answers BusError ends the command with
ERR_BUS in its own step, the rest of the plan discarded. -/
def Obligations.FailedReadEndsWithErrBus : Prop :=
  ∀ (s : State) (r : ReadReq) (rest : List ReadReq), s.phase = .run → s.plan = r :: rest →
    r.addr + r.size.bytes ≤ spaceSize s.params →
    s.params.misalignedRd = true ∨ r.addr % r.size.bytes = 0 → busFails s.params r = true →
    engineStep s = .next { s with
      errcode := 6#4
      done := true
      phase := .idle
      plan := []
      bytes := [] }

/-- 40_operation.md R155, R156: the completion step of each of the eleven commands. -/
def Obligations.CompletionPlacesTheDigest : Prop :=
  ∀ (s : State), s.phase = .run → s.plan = [] →
    (s.cmdOpc = 0x1#4 ∨ s.cmdOpc = 0x2#4 →
      engineStep s = .next (completedWith (digits32 (murmur1 s.bytes s.len s.seedLo)) s)) ∧
    (s.cmdOpc = 0x3#4 ∨ s.cmdOpc = 0x5#4 ∨ s.cmdOpc = 0x6#4 →
      engineStep s = .next (completedWith (digits32 (murmur2 s.bytes s.len s.seedLo)) s)) ∧
    (s.cmdOpc = 0x4#4 →
      engineStep s = .next (completedWith (digits32 (murmur2a s.bytes s.len s.seedLo)) s)) ∧
    (s.cmdOpc = 0x7#4 →
      engineStep s = .next (completedWith (digits64 (murmur64a s.bytes s.len (s.seedHi ++ s.seedLo))) s)) ∧
    (s.cmdOpc = 0x8#4 →
      engineStep s = .next (completedWith (digits64 (murmur64b s.bytes s.len (s.seedHi ++ s.seedLo))) s)) ∧
    (s.cmdOpc = 0x9#4 →
      engineStep s = .next (completedWith (digits32 (murmur3x32 s.bytes s.len s.seedLo)) s)) ∧
    (s.cmdOpc = 0xA#4 → ∀ o, o = murmur3x86 s.bytes s.len s.seedLo →
      engineStep s = .next (completedWith (le32 o 0, le32 o 4, le32 o 8, le32 o 12) s)) ∧
    (s.cmdOpc = 0xB#4 → ∀ o, o = murmur3x64 s.bytes s.len s.seedLo →
      engineStep s = .next (completedWith (le32 o 0, le32 o 4, le32 o 8, le32 o 12) s))

/-- 60_exceptions.md R303: with BUSY = 0 the core takes no engine step and every register keeps its value;
with nothing pending the machine stays as it is. -/
def Obligations.IdleEngineTakesNoStep : Prop :=
  ∀ s : State, s.phase = .idle → engineStep s = .next s ∧ (s.script = [] → step s = .next s)

/-! Whole commands -/

/-- 41_hash1.md R181, R182: HASH1 and HASH1A write MURMUR1 of the input. -/
def Obligations.Hash1CommandsWriteMurmur1 : Prop :=
  ∀ g : BitVec 28,
    RunsTo (.hash1 g) .hash1 (fun b s => digits32 (murmur1 b s.len s.seedLo)) ∧
    RunsTo (.hash1a g) .hash1a (fun b s => digits32 (murmur1 b s.len s.seedLo))

/-- 42_hash2.md R205, R207, R208: HASH2, HASH2N and HASH2AL write MURMUR2 of the input. -/
def Obligations.Hash2CommandsWriteMurmur2 : Prop :=
  ∀ g : BitVec 28,
    RunsTo (.hash2 g) .hash2 (fun b s => digits32 (murmur2 b s.len s.seedLo)) ∧
    RunsTo (.hash2n g) .hash2n (fun b s => digits32 (murmur2 b s.len s.seedLo)) ∧
    RunsTo (.hash2al g) .hash2al (fun b s => digits32 (murmur2 b s.len s.seedLo))

/-- 42_hash2.md R206: HASH2A writes MURMUR2A of the input. -/
def Obligations.Hash2ACommandWritesMurmur2A : Prop :=
  ∀ g : BitVec 28, RunsTo (.hash2a g) .hash2a (fun b s => digits32 (murmur2a b s.len s.seedLo))

/-- 42_hash2.md R209, R210, 30_encoding.md R116: HASH64A and HASH64B with SEED = SEED_HI:SEED_LO. -/
def Obligations.Hash64CommandsWriteTheirDigest : Prop :=
  ∀ g : BitVec 28,
    RunsTo (.hash64a g) .hash64a
      (fun b s => digits64 (murmur64a b s.len (s.seedHi ++ s.seedLo))) ∧
    RunsTo (.hash64b g) .hash64b
      (fun b s => digits64 (murmur64b b s.len (s.seedHi ++ s.seedLo)))

/-- 43_hash3.md R241: HASH3X86_32 writes MURMUR3_X86_32 of the input. -/
def Obligations.Hash3X86_32CommandWritesItsDigest : Prop :=
  ∀ g : BitVec 28,
    RunsTo (.hash3x86_32 g) .hash3x86_32 (fun b s => digits32 (murmur3x32 b s.len s.seedLo))

/-- 43_hash3.md R244, R246, 40_operation.md R156: the 128-bit commands write their lanes: h1 to h4, or the
low and high halves of h1 and of h2. -/
def Obligations.Hash3Commands128WriteTheirLanes : Prop :=
  ∀ g : BitVec 28,
    RunsTo (.hash3x86_128 g) .hash3x86_128 (fun b s =>
      ((murmur3x86Lanes b s.len s.seedLo).h1, (murmur3x86Lanes b s.len s.seedLo).h2,
       (murmur3x86Lanes b s.len s.seedLo).h3, (murmur3x86Lanes b s.len s.seedLo).h4)) ∧
    RunsTo (.hash3x64_128 g) .hash3x64_128 (fun b s =>
      ((murmur3x64Lanes b s.len s.seedLo).h1.extractLsb' 0 32,
       (murmur3x64Lanes b s.len s.seedLo).h1.extractLsb' 32 32,
       (murmur3x64Lanes b s.len s.seedLo).h2.extractLsb' 0 32,
       (murmur3x64Lanes b s.len s.seedLo).h2.extractLsb' 32 32))

/-- 70_reset_and_hazards.md R337, 40_operation.md R158: on the machine itself, a command written to CMD
whose checks pass completes within L + 2 steps, the first of them that write; where no planned read fails it
takes one acceptance step, one step per read and one completion step, and ends with no error. That the
engine moves once the script is empty is the model's choice (log 6). -/
def Obligations.WrittenCommandCompletesWithinLPlusTwoSteps : Prop :=
  ∀ (i : Instr) (v : Variant) (s : State), variantOfOpc i.opc = some v → Writes s 0x14 (encode i) [] →
    s.phase = .idle → Accepts s.params v s.src s.inputLen →
    ∃ n, 1 ≤ n ∧ n ≤ s.inputLen + 2 ∧ ∃ t, Host.Core.run Sys2Proof.core n s = .next t ∧
      t.script = [] ∧ t.phase = .idle ∧ t.done = true ∧ t.cmdOpc = i.opc ∧ t.mem = s.mem ∧
      (t.errcode = 0#4 ∨ t.errcode = 6#4) ∧
      (BusOk s.params (commandPlan v s) → n = (commandPlan v s).length + 2 ∧ t.errcode = 0#4)

/-- 40_operation.md R158: from every state of the invariant in which a command runs, at most L + 1 engine
steps complete it. -/
def Obligations.RunningCommandCompletesWithinLPlusOneEngineSteps : Prop :=
  ∀ s : State, CoreInv s → s.phase = .run →
    ∃ n ≤ s.inputLen + 1, ∃ t, engineRun n s = .next t ∧ t.phase = .idle ∧ t.done = true ∧
      t.cmdOpc = s.cmdOpc ∧ (t.errcode = 0#4 ∨ t.errcode = 6#4 ∧ DigZero t)

/-- 41_hash1.md R183, 42_hash2.md R211, 40_operation.md R149: on one state, the commands that share a
digest function leave the same DIG0 to DIG3, and their acceptance differs only by ERR_ALIGN where
P_MISALIGNED_RD is false. -/
def Obligations.DisciplinesDifferOnlyByErrAlign : Prop :=
  ∀ v v', (v, v') ∈
      [(Variant.hash1, Variant.hash1a), (.hash2, .hash2n), (.hash2, .hash2al), (.hash2n, .hash2al)] →
    (∀ (i i' : Instr) (s t t' u u' : State), variantOfOpc i.opc = some v → variantOfOpc i'.opc = some v' →
      s.phase = .idle → PlainRange s.params s.src s.inputLen →
      exec i s = .next t → exec i' s = .next t' → t.phase = .run → t'.phase = .run →
      engineRun (t.plan.length + 1) t = .next u → engineRun (t'.plan.length + 1) t' = .next u' →
      u.errcode = 0#4 → u'.errcode = 0#4 →
      u.dig0 = u'.dig0 ∧ u.dig1 = u'.dig1 ∧ u.dig2 = u'.dig2 ∧ u.dig3 = u'.dig3) ∧
    (∀ (p : Params) (src l : Nat), implements p v = true → implements p v' = true →
      acceptError p v src l = acceptError p v' src l ∨
      (p.misalignedRd = false ∧ 4 ≤ l ∧ src % 4 ≠ 0 ∧ acceptError p v src l = some .align ∧
        acceptError p v' src l = none))

/-- 30_encoding.md R116: the nine 32-bit-seed commands do not read SEED_HI: with another SEED_HI every
engine run gives the same state but for that register. -/
def Obligations.SeedHiIsNotReadBy32BitSeedCommands : Prop :=
  ∀ (i : Instr) (v : Variant) (s t u : State) (x : Word) (n : Nat), variantOfOpc i.opc = some v →
    v ≠ .hash64a → v ≠ .hash64b → s.phase = .idle →
    exec i s = .next t → engineRun n t = .next u →
    ∃ t', exec i { s with seedHi := x } = .next t' ∧ engineRun n t' = .next { u with seedHi := x }

/-- 40_operation.md R155, 20_memory.md R87: a command with L = 0 reads nothing and reaches its completion
right after acceptance. -/
def Obligations.EmptyInputCompletesWithoutReading : Prop :=
  ∀ (i : Instr) (v : Variant) (s : State), variantOfOpc i.opc = some v → s.phase = .idle → s.len = 0#32 →
    implements s.params v = true →
    ∃ t u, exec i s = .next t ∧ t.phase = .run ∧ t.plan = [] ∧ engineStep t = .next u ∧
      u.phase = .idle ∧ u.done = true ∧ u.errcode = 0#4 ∧ u.readCount = s.readCount

/-! Digest functions -/

/-- 40_operation.md R165: fmix32 is a bijection on u32. -/
def Obligations.Fmix32IsABijection : Prop := Function.Bijective fmix32

/-- 43_hash3.md R244: for L < 5 the lanes 2 to 4 of x86_128 see no input and end equal. -/
def Obligations.ShortInputLeavesLanesTwoToFourEqual : Prop :=
  ∀ (b : List Byte) (l seed : Word), l.toNat < 5 →
    (murmur3x86Lanes b l seed).h2 = (murmur3x86Lanes b l seed).h3 ∧
    (murmur3x86Lanes b l seed).h3 = (murmur3x86Lanes b l seed).h4

/-- 41_hash1.md R180, 42_hash2.md R200, R203, R204, 43_hash3.md R240, R243, R245, R247: every BLOCK_LOOP
takes the blocks in ascending order, and the little-endian words of a block in ascending order, one per lane:
a first block put before the input is mixed first. -/
def Obligations.BlocksAreMixedInAscendingOrder : Prop :=
  ∀ (b : List Byte) (nb : Nat),
    (∀ k h : Word, murmur1Blocks (le32bytes k ++ b) (nb + 1) h = murmur1Blocks b nb (murmur1Block h k)) ∧
    (∀ k h : Word, murmur2Blocks (le32bytes k ++ b) (nb + 1) h = murmur2Blocks b nb (mmix h k)) ∧
    (∀ k h : Word,
      murmur3x32Blocks (le32bytes k ++ b) (nb + 1) h = murmur3x32Blocks b nb (murmur3x32Block h k)) ∧
    (∀ k h : DWord,
      murmur64aBlocks (le64bytes k ++ b) (nb + 1) h = murmur64aBlocks b nb (murmur64aBlock h k)) ∧
    (∀ k1 k2 h1 h2 : Word, murmur64bBlocks (le32bytes k1 ++ le32bytes k2 ++ b) (nb + 1) (h1, h2) =
      murmur64bBlocks b nb (mmix h1 k1, mmix h2 k2)) ∧
    (∀ (k1 k2 k3 k4 : Word) (h : Lanes32),
      murmur3x86Blocks (le32bytes k1 ++ le32bytes k2 ++ le32bytes k3 ++ le32bytes k4 ++ b) (nb + 1) h =
        murmur3x86Blocks b nb (murmur3x86Block h k1 k2 k3 k4)) ∧
    (∀ (k1 k2 : DWord) (h : Lanes64), murmur3x64Blocks (le64bytes k1 ++ le64bytes k2 ++ b) (nb + 1) h =
      murmur3x64Blocks b nb (murmur3x64Block h k1 k2))

/-- 43_hash3.md R248: the empty input with seed 0 has digest 0 in the three MurmurHash3 functions. -/
def Obligations.EmptyInputSeedZeroHashesToZero : Prop :=
  murmur3x32 [] 0#32 0#32 = 0#32 ∧
  (∀ i ∈ [0, 4, 8, 12], le32 (murmur3x86 [] 0#32 0#32) i = 0#32 ∧ le32 (murmur3x64 [] 0#32 0#32) i = 0#32)

/-! The register window -/

/-- 10_state.md R40, R41, R51 to R54: what the plain registers read as; R43, R44: CTRL has IE at [0], and
SRST and [31:2] read 0; R50: CMD has OPC at [3:0], and [31:4] read 0. -/
def Obligations.HostReadReturnsTheRegister : Prop :=
  (∀ (s : State) (o : Nat) (x : Word) (rest : List Event), Reads s o rest →
    (o, x) ∈ [(0x00, 0x4D55524D#32), (0x04, 0x00010000#32), (0x18, s.len), (0x20, s.srcLo),
      (0x28, s.seedLo), (0x2C, s.seedHi), (0x30, s.dig0), (0x34, s.dig1), (0x38, s.dig2), (0x3C, s.dig3)] ∨
      (o = 0x24 ∧ s.params.addrW = .w64 ∧ x = s.srcHi) →
    step s = .next { s with script := rest, resp := .data x }) ∧
  (∀ (s : State) (rest : List Event), Reads s 0x0C rest →
    ∃ x : Word, step s = .next { s with script := rest, resp := .data x } ∧
      x.getLsbD 0 = s.ie ∧ x.extractLsb' 1 31 = 0#31) ∧
  (∀ (s : State) (rest : List Event), Reads s 0x14 rest →
    ∃ x : Word, step s = .next { s with script := rest, resp := .data x } ∧
      x.extractLsb' 0 4 = s.cmdOpc ∧ x.extractLsb' 4 28 = 0#28)

/-- 10_state.md R45 to R49: the fields of the STATUS value a host read returns. -/
def Obligations.StatusReadShowsItsFields : Prop :=
  ∀ (s : State) (rest : List Event), Reads s 0x10 rest →
    ∃ x : Word, step s = .next { s with script := rest, resp := .data x } ∧
      x.getLsbD 0 = decide (s.phase = .run) ∧ x.getLsbD 1 = s.done ∧
      x.getLsbD 2 = decide (s.errcode ≠ 0#4) ∧ x.getLsbD 3 = false ∧ x.extractLsb' 4 4 = s.errcode ∧
      x.getLsbD 8 = s.drop ∧ x.extractLsb' 9 23 = 0#23

/-- 10_state.md R42: CAPS, field by field, from the parameters; its value with the defaults. -/
def Obligations.CapsReadShowsTheParameters : Prop :=
  (∀ (s : State) (rest : List Event), Reads s 0x08 rest →
    ∃ x : Word, step s = .next { s with script := rest, resp := .data x } ∧
      x.getLsbD 0 = false ∧ (∀ v : Variant, x.getLsbD v.opc.toNat = implements s.params v) ∧
      x.extractLsb' 12 4 = 0#4 ∧ x.getLsbD 16 = s.params.misalignedRd ∧
      x.getLsbD 17 = decide (s.params.addrW = .w64) ∧ x.extractLsb' 18 14 = 0#14) ∧
  capsWord .default = 0x00030FFE#32

/-- 10_state.md R33: a reserved offset (SRC_HI's too when P_ADDR_W = 32) reads 0 and ignores writes; DROP
is not set. -/
def Obligations.ReservedOffsetsReadZeroAndIgnoreWrites : Prop :=
  ∀ (s : State) (o : Nat) (v : Word) (rest : List Event),
    o = 0x1C ∨ (o % 4 = 0 ∧ 0x40 ≤ o ∧ o ≤ 0xFC) ∨ (o = 0x24 ∧ s.params.addrW = .w32) →
    (Reads s o rest → step s = .next { s with script := rest, resp := .data 0#32 }) ∧
    (Writes s o v rest → step s = .next { s with script := rest, resp := .written })

/-- 10_state.md R34: a write to a read-only register is ignored with a normal response. -/
def Obligations.WritesToReadOnlyRegistersAreIgnored : Prop :=
  ∀ (s : State) (o : Nat) (v : Word) (rest : List Event),
    o ∈ [0x00, 0x04, 0x08, 0x30, 0x34, 0x38, 0x3C] → Writes s o v rest →
    step s = .next { s with script := rest, resp := .written }

/-- 10_state.md R32: any access in the window but a 32-bit one at a multiple of 4 gets an error response
and changes nothing. -/
def Obligations.MalformedAccessChangesNothing : Prop :=
  ∀ (s : State) (o size : Nat) (v : Word) (rest : List Event), o < 256 → size ≠ 4 ∨ o % 4 ≠ 0 →
    s.script = .hostRead (s.params.base + o) size :: rest ∨
      s.script = .hostWrite (s.params.base + o) size v :: rest →
    step s = .next { s with script := rest, resp := .error }

/-- 10_state.md R36: while BUSY = 1 a write to CMD or an operand register only sets DROP, and writes to
CTRL and STATUS take effect. -/
def Obligations.OperandWritesWhileBusyOnlySetDrop : Prop :=
  ∀ (s : State) (v : Word) (rest : List Event), s.phase = .run →
    (∀ o ∈ [0x14, 0x18, 0x20, 0x28, 0x2C], Writes s o v rest →
      step s = .next { s with script := rest, resp := .written, drop := true }) ∧
    (s.params.addrW = .w64 → Writes s 0x24 v rest →
      step s = .next { s with script := rest, resp := .written, drop := true }) ∧
    (Writes s 0x0C v rest → v.getLsbD 1 = false →
      step s = .next { s with script := rest, resp := .written, ie := v.getLsbD 0 }) ∧
    (Writes s 0x10 v rest →
      step s = .next { s with
        script := rest
        resp := .written
        done := s.done && !v.getLsbD 1
        drop := s.drop && !v.getLsbD 8 })

/-- 10_state.md R51 to R53: while BUSY = 0 a write to an operand register sets it, and nothing else. -/
def Obligations.OperandWritesWhileIdleSetTheRegister : Prop :=
  ∀ (s : State) (v : Word) (rest : List Event), s.phase = .idle →
    (Writes s 0x18 v rest → step s = .next { s with script := rest, resp := .written, len := v }) ∧
    (Writes s 0x20 v rest → step s = .next { s with script := rest, resp := .written, srcLo := v }) ∧
    (s.params.addrW = .w64 → Writes s 0x24 v rest →
      step s = .next { s with script := rest, resp := .written, srcHi := v }) ∧
    (Writes s 0x28 v rest → step s = .next { s with script := rest, resp := .written, seedLo := v }) ∧
    (Writes s 0x2C v rest → step s = .next { s with script := rest, resp := .written, seedHi := v })

/-- 10_state.md R43, R46, R48, R49: what a write to CTRL without SRST, and one to STATUS, do in any state. -/
def Obligations.ControlAndStatusWrites : Prop :=
  ∀ (s : State) (v : Word) (rest : List Event),
    (Writes s 0x0C v rest → v.getLsbD 1 = false →
      step s = .next { s with script := rest, resp := .written, ie := v.getLsbD 0 }) ∧
    (Writes s 0x10 v rest → v.getLsbD 1 = false → v.getLsbD 8 = false →
      step s = .next { s with script := rest, resp := .written }) ∧
    (Writes s 0x10 v rest → v.getLsbD 1 = true → v.getLsbD 8 = false →
      step s = .next { s with script := rest, resp := .written, done := false }) ∧
    (Writes s 0x10 v rest → v.getLsbD 1 = false → v.getLsbD 8 = true →
      step s = .next { s with script := rest, resp := .written, drop := false }) ∧
    (Writes s 0x10 v rest → v.getLsbD 1 = true → v.getLsbD 8 = true →
      step s = .next { s with script := rest, resp := .written, done := false, drop := false })

/-- 30_encoding.md R120, 70_reset_and_hazards.md R325: the HASH pseudo-instruction, run from an idle core,
loads the operands and issues the command. -/
def Obligations.HashPseudoInstructionIssuesTheCommand : Prop :=
  ∀ (s : State) (m : Variant) (a : DWord) (l : Word) (seed : DWord), s.phase = .idle →
    s.script = hashProgram s.params m a l seed →
    ∃ i : Instr, i.opc = m.opc ∧
    (s.params.addrW = .w64 → Host.Core.run Sys2Proof.core 6 s = exec i { s with
      script := []
      resp := .written
      srcLo := a.extractLsb' 0 32
      srcHi := a.extractLsb' 32 32
      len := l
      seedLo := seed.extractLsb' 0 32
      seedHi := seed.extractLsb' 32 32 }) ∧
    (s.params.addrW = .w32 → Host.Core.run Sys2Proof.core 5 s = exec i { s with
      script := []
      resp := .written
      srcLo := a.extractLsb' 0 32
      len := l
      seedLo := seed.extractLsb' 0 32
      seedHi := seed.extractLsb' 32 32 })

/-- 30_encoding.md R119: WAIT DONE reads STATUS and goes on once DONE is 1; WAIT IRQ goes on once irq is 1;
until then the engine gets the next step and the wait comes again (the order is the model's choice, log 16). -/
def Obligations.WaitsGoOnOnlyWhenTheirConditionHolds : Prop :=
  ∀ (s : State) (rest : List Event),
    (s.script = .waitDone :: rest →
      step s = .next { s with
        script := if s.done then rest else .engine :: .waitDone :: rest
        resp := .data (statusWord s) }) ∧
    (s.script = .waitIrq :: rest →
      step s = .next { s with
        script := if s.ie && s.done then rest else .engine :: .waitIrq :: rest })

/-! Reset -/

/-- 70_reset_and_hazards.md R320 to R322: from any state, a soft reset (a write to CTRL with bit [1] = 1)
and a hard reset leave every register at its reset value and the engine idle and empty; memory and the
parameters stay. That `readCount` stays in both, `resp` in a hard reset, and that `resp` is a normal write
response in a soft one, is the model's choice (log 5, log 8), as the script is (log 6). -/
def Obligations.SoftAndHardResetGiveTheResetState : Prop :=
  ∀ (s : State) (v : Word) (rest : List Event),
    (Writes s 0x0C v rest → v.getLsbD 1 = true →
      step s = .next { afterReset s with script := rest, resp := .written }) ∧
    (s.script = .hardReset :: rest →
      step s = .next { afterReset s with script := rest })

/-- 70_reset_and_hazards.md R321: what the host reads of each register after reset, the engine and irq. -/
def Obligations.ResetLeavesTheValuesOfTheTable : Prop :=
  readReg .id .reset = 0x4D55524D#32 ∧ readReg .version .reset = 0x00010000#32 ∧
  readReg .caps .reset = 0x00030FFE#32 ∧
  (∀ r ∈ [Reg.ctrl, .status, .cmd, .len, .srcLo, .srcHi, .seedLo, .seedHi, .dig0, .dig1, .dig2, .dig3],
    readReg r .reset = 0#32) ∧
  State.reset.phase = .idle ∧ State.reset.plan = [] ∧ State.reset.bytes = [] ∧ irq .reset = false

/-! Whole-machine rules and invariants -/

/-- 40_operation.md R145: from acceptance to completion the operand registers and CMD do not change. -/
def Obligations.OperandsStayFixedWhileACommandRuns : Prop :=
  ∀ s t : State, s.phase = .run → (step s = .next t ∧ t.phase = .run) ∨ engineStep s = .next t →
    t.len = s.len ∧ t.srcLo = s.srcLo ∧ t.srcHi = s.srcHi ∧ t.seedLo = s.seedLo ∧ t.seedHi = s.seedHi ∧
    t.cmdOpc = s.cmdOpc ∧ t.params = s.params

/-- 20_memory.md R84: only another agent's write changes the read space. -/
def Obligations.OnlyAnAgentsWriteChangesMemory : Prop :=
  ∀ s t : State, step s = .next t →
    t.mem = s.mem ∨ ∃ a data rest, s.script = .memWrite a data :: rest

/-- 20_memory.md R92: after another agent's write its bytes read as written and every other byte as
before; nothing else changes. -/
def Obligations.AgentWriteThenReadReturnsTheBytes : Prop :=
  ∀ (s : State) (a : Nat) (data : List Byte) (rest : List Event), memWf s.mem = true →
    s.script = .memWrite a data :: rest → a + data.length ≤ spaceSize s.params →
    ∃ m, step s = .next { s with script := rest, mem := m } ∧ memWf m = true ∧
      ∀ x, memByte m x =
        if a ≤ x ∧ x < a + data.length then data.getD (x - a) 0#8 else memByte s.mem x

/-- 10_state.md R49: DROP is cleared only by a STATUS write with bit [8] = 1 or a reset, and set only by a
guarded write while BUSY = 1. -/
def Obligations.DropChangesOnlyByItsRules : Prop :=
  ∀ s t : State, step s = .next t →
    (s.drop = true → t.drop = false →
      ∃ v rest, (Writes s 0x10 v rest ∧ v.getLsbD 8 = true) ∨ (Writes s 0x0C v rest ∧ v.getLsbD 1 = true) ∨
        s.script = .hardReset :: rest) ∧
    (s.drop = false → t.drop = true →
      s.phase = .run ∧ ∃ o ∈ [0x14, 0x18, 0x20, 0x24, 0x28, 0x2C],
        (o = 0x24 → s.params.addrW = .w64) ∧ ∃ v rest, Writes s o v rest)

/-- 10_state.md R45, R46: BUSY rises only when an accepted command's write starts it, and falls only at a
completion or a reset; DONE rises only when a command ends, and falls only at an acceptance, at a write of 1
to its STATUS bit or at a reset. -/
def Obligations.BusyAndDoneChangeOnlyByTheirRules : Prop :=
  ∀ s t : State, step s = .next t →
    (s.phase = .idle → t.phase = .run →
      ∃ w rest v, Writes s 0x14 w rest ∧ variantOfOpc (decodeWord w).opc = some v ∧
        Accepts s.params v s.src s.inputLen ∧ t.done = false ∧ t.errcode = 0#4) ∧
    (s.done = false → t.done = true →
      t.phase = .idle ∧ t.plan = [] ∧ t.bytes = [] ∧
        (s.phase = .run ∨ ∃ w rest, Writes s 0x14 w rest)) ∧
    (s.phase = .run → t.phase = .idle →
      t.done = true ∨ (∃ v rest, Writes s 0x0C v rest ∧ v.getLsbD 1 = true) ∨
        ∃ rest, s.script = .hardReset :: rest) ∧
    (s.done = true → t.done = false →
      (∃ w rest, Writes s 0x14 w rest ∧ s.phase = .idle) ∨
      (∃ v rest, Writes s 0x10 v rest ∧ v.getLsbD 1 = true) ∨
      (∃ v rest, Writes s 0x0C v rest ∧ v.getLsbD 1 = true) ∨
      ∃ rest, s.script = .hardReset :: rest)

/-- 10_state.md R54, R64: a step that changes a digest register is a CMD write of an idle core or a reset,
which leave all four 0, or a completion with success of a running command. -/
def Obligations.DigestChangesOnlyByAcceptanceCompletionOrReset : Prop :=
  ∀ s t : State, step s = .next t →
    (t.dig0 = s.dig0 ∧ t.dig1 = s.dig1 ∧ t.dig2 = s.dig2 ∧ t.dig3 = s.dig3) ∨
      (DigZero t ∧
        ((s.phase = .idle ∧ ∃ w rest, Writes s 0x14 w rest) ∨
          (∃ v rest, Writes s 0x0C v rest ∧ v.getLsbD 1 = true) ∨ ∃ rest, s.script = .hardReset :: rest)) ∨
      (s.phase = .run ∧ s.plan = [] ∧ t.phase = .idle ∧ t.done = true ∧ t.errcode = 0#4)

/-- 60_exceptions.md R289: no step writes a code from 7 to 15 to ERRCODE. -/
def Obligations.NoStepWritesAReservedErrorCode : Prop :=
  ∀ s t : State, step s = .next t → t.errcode = s.errcode ∨ t.errcode.toNat ≤ 6

/-- 60_exceptions.md R295, R296: irq is IE and DONE; it rises only when the end of a command, a running one
or one that its own CMD write ends, sets DONE while IE is 1, or when a CTRL write sets IE while DONE is 1;
after reset it is 0. -/
def Obligations.IrqRisesOnlyByCompletionOrEnable : Prop :=
  (∀ s : State, irq s = (s.ie && s.done)) ∧ irq .reset = false ∧
  (∀ s t : State, step s = .next t → irq s = false → irq t = true →
    (s.ie = true ∧ s.done = false ∧ t.done = true ∧ t.phase = .idle ∧
      (s.phase = .run ∨ ∃ w rest, Writes s 0x14 w rest)) ∨
    (s.ie = false ∧ s.done = true ∧
      ∃ v rest, Writes s 0x0C v rest ∧ v.getLsbD 0 = true ∧ v.getLsbD 1 = false))

/-- The invariant holds at reset. -/
def Obligations.InvariantHoldsAtReset : Prop := CoreInv .reset

/-- Every step from a state of the invariant leads to a state of the invariant. -/
def Obligations.EveryStepKeepsTheInvariant : Prop :=
  ∀ s t : State, CoreInv s → step s = .next t → CoreInv t

/-- From a state of the invariant no step stops: the core has no trap (60_exceptions.md R280). -/
def Obligations.InvariantStatesAreSafe : Prop := ∀ s : State, CoreInv s → Safe s

/-! Tails and fmix64 -/

/-- The tail bytes of every digest function (41_hash1.md R180, 42_hash2.md R200, R202, R203, R204,
43_hash3.md R240, R243, R245, R247, 40_operation.md R161, R162): the t tail bytes from offset o, zero-extended
and put at their places, are the little-endian words of those bytes with zeros above; in every function but
MURMUR2A each word is mixed iff the tail reaches its first byte. Of MURMUR2A, which mixes its word always
(R202), only the word it gathers is stated. MURMUR64B mixes one more word into h1 iff L mod 8 >= 4, and its
tail is the last L mod 4 bytes. -/
def Obligations.TailBytesAreMixedAsLittleEndianWords : Prop :=
  (∀ (b : List Byte) (o t : Nat) (h : Word), t < 4 →
    murmur1Tail b o t h = (if t = 0 then h else murmur1Block h (le32 (tailBytes b o t) 0)) ∧
    murmur2Tail b o t h = (if t = 0 then h else (h ^^^ le32 (tailBytes b o t) 0) * 0x5BD1E995#32) ∧
    xorTail b o t 0#32 = le32 (tailBytes b o t) 0 ∧
    murmur3x32Tail b o t h = (if t = 0 then h else h ^^^ kmix32 (le32 (tailBytes b o t) 0))) ∧
  (∀ (b : List Byte) (o t : Nat) (h : DWord), t < 8 →
    murmur64aTail b o t h =
      if t = 0 then h else (h ^^^ le64 (tailBytes b o t) 0) * 0xC6A4A7935BD1E995#64) ∧
  (∀ (b : List Byte) (o t : Nat) (h : Lanes32), t < 16 →
    murmur3x86Tail b o t h =
      ⟨if 0 < t then h.h1 ^^^ kmix1 (le32 (tailBytes b o t) 0) else h.h1,
       if 4 < t then h.h2 ^^^ kmix2 (le32 (tailBytes b o t) 4) else h.h2,
       if 8 < t then h.h3 ^^^ kmix3 (le32 (tailBytes b o t) 8) else h.h3,
       if 12 < t then h.h4 ^^^ kmix4 (le32 (tailBytes b o t) 12) else h.h4⟩) ∧
  (∀ (b : List Byte) (o t : Nat) (h : Lanes64), t < 16 →
    murmur3x64Tail b o t h =
      ⟨if 0 < t then h.h1 ^^^ kmixA (le64 (tailBytes b o t) 0) else h.h1,
       if 8 < t then h.h2 ^^^ kmixB (le64 (tailBytes b o t) 8) else h.h2⟩) ∧
  (∀ (b : List Byte) (l : Word) (seed : DWord) (h : Word × Word),
    h = murmur64bBlocks b (l.toNat / 8) (seed.extractLsb' 0 32 ^^^ l, seed.extractLsb' 32 32) →
    murmur64b b l seed =
      murmur64bFinal (if 4 ≤ l.toNat % 8 then mmix h.1 (le32 b (8 * (l.toNat / 8))) else h.1)
        (murmur2Tail b (4 * (l.toNat / 4)) (l.toNat % 4) h.2))

/-- 40_operation.md R166: fmix64 at 0 and at the rule's example; that it is a bijection on u64 follows from
the rule's steps as R165 says it of fmix32. -/
def Obligations.Fmix64IsABijection : Prop :=
  Function.Bijective fmix64 ∧ fmix64 0#64 = 0#64 ∧ fmix64 0x0000000000000001#64 = 0xB456BCFC34C2CB2C#64
end

