-- ==== Sys2Proof/Laws/Memory.lean ====
section
/-! SUPPORT. The laws of the read space: canonical form kept, read after write, equal reads equal memories. -/

namespace Sys2Proof.Machine

theorem memWf_cons {k : Nat} {v : Byte} {m : List Host.Cell} :
    memWf ((k, v) :: m) = true ↔ v ≠ unlistedByte ∧ (∀ c ∈ m, k < c.1) ∧ memWf m = true := by
  simp [memWf, and_assoc]

/-- An address below every listed one reads as unlisted. -/
theorem memByte_unlisted {m : List Host.Cell} {a : Nat} (h : ∀ c ∈ m, a < c.1) :
    memByte m a = unlistedByte := by
  induction m with
  | nil => rfl
  | cons c m ih =>
    have hc := h c (by simp)
    simp only [memByte]
    rw [if_neg (by omega), ih (fun c hc => h c (by simp [hc]))]

/-- The cells of a written memory are old cells or the new one. -/
theorem mem_of_memPut {m : List Host.Cell} {a : Nat} {b : Byte} {c : Host.Cell}
    (h : c ∈ memPut m a b) : c ∈ m ∨ c = (a, b) := by
  induction m with
  | nil =>
    simp only [memPut] at h
    split at h <;> simp_all
  | cons d m ih =>
    simp only [memPut] at h
    split_ifs at h
    · exact .inl h
    · rcases List.mem_cons.1 h with h | h
      · exact .inr h
      · exact .inl h
    · exact .inl (by simp [h])
    · rcases List.mem_cons.1 h with h | h
      · exact .inr h
      · exact .inl (by simp [h])
    · rcases List.mem_cons.1 h with h | h
      · exact .inl (by simp [h])
      · rcases ih h with h | h
        · exact .inl (by simp [h])
        · exact .inr h

theorem memWf_memPut {m : List Host.Cell} (a : Nat) (b : Byte) (h : memWf m = true) :
    memWf (memPut m a b) = true := by
  induction m with
  | nil => simp only [memPut]; split <;> simp_all [memWf]
  | cons c m ih =>
    obtain ⟨k, v⟩ := c
    obtain ⟨hv, hlt, hm⟩ := memWf_cons.1 h
    simp only [memPut]
    split_ifs with h1 h2 h3 h4
    · exact h
    · refine memWf_cons.2 ⟨h2, fun c hc => ?_, h⟩
      rcases List.mem_cons.1 hc with rfl | hc
      · exact h1
      · exact h1.trans (hlt c hc)
    · exact hm
    · exact memWf_cons.2 ⟨h4, fun c hc => h3 ▸ hlt c hc, hm⟩
    · refine memWf_cons.2 ⟨hv, fun c hc => ?_, ih hm⟩
      rcases mem_of_memPut hc with hc | rfl
      · exact hlt c hc
      · omega

theorem memByte_memPut {m : List Host.Cell} (a : Nat) (b : Byte) (x : Nat) (h : memWf m = true) :
    memByte (memPut m a b) x = if x = a then b else memByte m x := by
  induction m with
  | nil =>
    by_cases hb : b = unlistedByte <;> by_cases hx : x = a <;>
      simp [memPut, memByte, hb, hx, Ne.symm]
  | cons c m ih =>
    obtain ⟨k, v⟩ := c
    obtain ⟨hv, hlt, hm⟩ := memWf_cons.1 h
    have below : ∀ y, y < k → memByte ((k, v) :: m) y = unlistedByte := fun y hy => by
      simp only [memByte]
      rw [if_neg (by omega), memByte_unlisted fun c hc => hy.trans (hlt c hc)]
    simp only [memPut]
    by_cases hak : a < k
    · by_cases hb : b = unlistedByte
      · by_cases hx : x = a
        · subst hx; simp [hak, hb, below _ hak]
        · simp [hak, hb, hx]
      · by_cases hx : x = a
        · subst hx; simp [hak, hb, memByte]
        · simp [hak, hb, hx, memByte, Ne.symm hx]
    · by_cases hk : a = k
      · subst hk
        by_cases hb : b = unlistedByte
        · by_cases hx : x = a
          · subst hx; simp [hb, memByte_unlisted hlt]
          · simp [hb, hx, memByte, Ne.symm hx]
        · by_cases hx : x = a
          · subst hx; simp [hb, memByte]
          · simp [hb, hx, memByte, Ne.symm hx]
      · simp only [hak, hk, if_false, memByte, ih hm]
        by_cases hx : x = a
        · subst hx; simp [Ne.symm hk]
        · simp [hx]

theorem memWf_memPutList {m : List Host.Cell} (a : Nat) (bs : List Byte) (h : memWf m = true) :
    memWf (memPutList m a bs) = true := by
  induction bs generalizing m a with
  | nil => exact h
  | cons b bs ih => exact ih (a + 1) (memWf_memPut a b h)

/-- A byte after an agent's write (20_memory.md R92). -/
theorem memByte_memPutList {m : List Host.Cell} (a : Nat) (bs : List Byte) (x : Nat)
    (h : memWf m = true) :
    memByte (memPutList m a bs) x =
      if a ≤ x ∧ x < a + bs.length then bs.getD (x - a) 0#8 else memByte m x := by
  induction bs generalizing m a with
  | nil => simp [memPutList]
  | cons b bs ih =>
    simp only [memPutList, List.length_cons]
    rw [ih (a + 1) (memWf_memPut a b h), memByte_memPut a b x h]
    by_cases hx : x = a
    · subst hx; simp
    · by_cases h1 : a + 1 ≤ x ∧ x < a + 1 + bs.length
      · rw [if_pos h1, if_pos (by omega)]
        obtain ⟨k, rfl⟩ : ∃ k, x = a + 1 + k := ⟨x - (a + 1), by omega⟩
        rw [show a + 1 + k - a = k + 1 by omega, show a + 1 + k - (a + 1) = k by omega]
        rfl
      · rw [if_neg h1, if_neg hx, if_neg (by omega)]

theorem mem_of_memPutList {m : List Host.Cell} {a : Nat} {bs : List Byte} {c : Host.Cell}
    (h : c ∈ memPutList m a bs) : c ∈ m ∨ (a ≤ c.1 ∧ c.1 < a + bs.length) := by
  induction bs generalizing m a with
  | nil => exact .inl h
  | cons b bs ih =>
    rcases ih h with h | ⟨h1, h2⟩
    · rcases mem_of_memPut h with h | rfl
      · exact .inl h
      · exact .inr ⟨le_rfl, by simp⟩
    · exact .inr ⟨by omega, by rw [List.length_cons]; omega⟩

/-- Equal reads are equal memories: the form is canonical. -/
theorem mem_ext {m n : List Host.Cell} (hm : memWf m = true) (hn : memWf n = true)
    (h : ∀ a, memByte m a = memByte n a) : m = n := by
  induction m generalizing n with
  | nil =>
    cases n with
    | nil => rfl
    | cons d n =>
      obtain ⟨hv, _, _⟩ := memWf_cons.1 hn
      exact absurd (h d.1) (by simpa [memByte] using fun e => hv e.symm)
  | cons c m ih =>
    obtain ⟨k, v⟩ := c
    obtain ⟨hv, hlt, hm'⟩ := memWf_cons.1 hm
    cases n with
    | nil => exact absurd (h k) (by simpa [memByte] using hv)
    | cons d n =>
      obtain ⟨j, w⟩ := d
      obtain ⟨hw, hlt', hn'⟩ := memWf_cons.1 hn
      have hk : k = j := by
        rcases Nat.lt_trichotomy k j with hkj | hkj | hkj
        · have := h k
          simp only [memByte, if_true] at this
          rw [if_neg (by omega), memByte_unlisted fun c hc => hkj.trans (hlt' c hc)] at this
          exact absurd this hv
        · exact hkj
        · have := h j
          simp only [memByte, if_true] at this
          rw [if_neg (by omega), memByte_unlisted fun c hc => hkj.trans (hlt c hc)] at this
          exact absurd this.symm hw
      subst hk
      have hvw : v = w := by simpa [memByte] using h k
      subst hvw
      congr 1
      refine ih hm' hn' fun a => ?_
      by_cases ha : k = a
      · subst ha; rw [memByte_unlisted hlt, memByte_unlisted hlt']
      · simpa [memByte, ha] using h a

end Sys2Proof.Machine
end

