-- ==== Sys2Proof/Laws/Plan.lean ====
section
/-! SUPPORT. The laws of read plans (40_operation.md R147, R148) that the invariant rests on. -/

namespace Sys2Proof.Machine

@[simp] theorem readLen_nil : readLen [] = 0 := rfl

@[simp] theorem readLen_cons (r : ReadReq) (rs : List ReadReq) :
    readLen (r :: rs) = r.size.bytes + readLen rs := rfl

@[simp] theorem readLen_append (a b : List ReadReq) : readLen (a ++ b) = readLen a + readLen b := by
  simp [readLen]

theorem readSize_pos (n : ReadSize) : 0 < n.bytes := by cases n <;> decide

/-- Reads of one size, one for each index. -/
theorem readLen_map_range (n : Nat) (f : Nat → Nat) (z : ReadSize) :
    readLen ((List.range n).map fun j => ⟨f j, z⟩) = z.bytes * n := by
  induction n with
  | zero => rfl
  | succ n ih => rw [List.range_succ, List.map_append, readLen_append, ih]; simp [Nat.mul_succ]

/-- The word reads lie within the input (R146). -/
theorem words_le (v : Variant) (src l : Nat) : (wordSize v).bytes * wordCount v src l ≤ l := by
  cases v <;> simp only [wordSize, wordCount, ReadSize.bytes] <;> (try split) <;> omega

/-- A plan returns exactly L bytes (R152). -/
theorem readLen_planOf (p : Params) (v : Variant) (src l : Nat) : readLen (planOf p v src l) = l := by
  have h := words_le v src l
  simp only [planOf, readLen_append]
  rw [readLen_map_range (f := fun j => (src + (wordSize v).bytes * j) % spaceSize p),
    readLen_map_range (f := fun i => (src + ((wordSize v).bytes * wordCount v src l + i)) % spaceSize p)]
  show _ + 1 * _ = l
  omega

/-- A plan as R147 writes it, when the range check has passed: no address wraps. -/
theorem planOf_eq {p : Params} {v : Variant} {src l : Nat} (h : src + l ≤ spaceSize p) :
    planOf p v src l =
      (List.range (wordCount v src l)).map (fun j => ⟨src + (wordSize v).bytes * j, wordSize v⟩) ++
      (List.range (l - (wordSize v).bytes * wordCount v src l)).map
        (fun i => ⟨src + ((wordSize v).bytes * wordCount v src l + i), .one⟩) := by
  have hw := words_le v src l
  have hp := readSize_pos (wordSize v)
  simp only [planOf]
  congr 1
  · refine List.map_congr_left fun j hj => ?_
    have hj := List.mem_range.1 hj
    have : (wordSize v).bytes * (j + 1) ≤ (wordSize v).bytes * wordCount v src l :=
      Nat.mul_le_mul_left _ hj
    rw [Nat.mul_succ] at this
    rw [Nat.mod_eq_of_lt (by omega)]
  · refine List.map_congr_left fun i hi => ?_
    have hi := List.mem_range.1 hi
    rw [Nat.mod_eq_of_lt (by omega)]

/-- Every read of an accepted plan lies in the input range and is aligned where the port needs it
(20_memory.md R86, R87). -/
theorem mem_planOf {p : Params} {v : Variant} {src l : Nat} (h : Accepts p v src l) {r : ReadReq}
    (hr : r ∈ planOf p v src l) :
    src ≤ r.addr ∧ r.addr + r.size.bytes ≤ src + l ∧
      (p.misalignedRd = true ∨ r.addr % r.size.bytes = 0) := by
  have hw := words_le v src l
  rw [planOf_eq h.range, List.mem_append, List.mem_map, List.mem_map] at hr
  rcases hr with ⟨j, hj, rfl⟩ | ⟨i, hi, rfl⟩
  · have hj := List.mem_range.1 hj
    have hj' : (wordSize v).bytes * (j + 1) ≤ (wordSize v).bytes * wordCount v src l :=
      Nat.mul_le_mul_left _ hj
    rw [Nat.mul_succ] at hj'
    refine ⟨by simp, by simp only; omega, ?_⟩
    rcases h.aligned with ha | ha | ha
    · exact .inl ha
    · omega
    · exact .inr (by simp [Nat.add_mod, ha])
  · have hi := List.mem_range.1 hi
    exact ⟨by simp only; omega, by show _ + 1 ≤ _; simp only; omega,
      .inr (Nat.mod_one _)⟩

end Sys2Proof.Machine
end

