-- ==== Sys2Proof/Laws/State.lean ====
section
/-! SUPPORT. One lemma per field and per update of the state, so that no proof unfolds a record update. -/

namespace Sys2Proof.Machine

variable (s : State)

/-! `raise` -/

@[simp] theorem raise_ie (e : ErrCode) : (raise e s).ie = s.ie := rfl
@[simp] theorem raise_done (e : ErrCode) : (raise e s).done = true := rfl
@[simp] theorem raise_errcode (e : ErrCode) : (raise e s).errcode = e.code := rfl
@[simp] theorem raise_drop (e : ErrCode) : (raise e s).drop = s.drop := rfl
@[simp] theorem raise_cmdOpc (e : ErrCode) : (raise e s).cmdOpc = s.cmdOpc := rfl
@[simp] theorem raise_len (e : ErrCode) : (raise e s).len = s.len := rfl
@[simp] theorem raise_srcLo (e : ErrCode) : (raise e s).srcLo = s.srcLo := rfl
@[simp] theorem raise_srcHi (e : ErrCode) : (raise e s).srcHi = s.srcHi := rfl
@[simp] theorem raise_seedLo (e : ErrCode) : (raise e s).seedLo = s.seedLo := rfl
@[simp] theorem raise_seedHi (e : ErrCode) : (raise e s).seedHi = s.seedHi := rfl
@[simp] theorem raise_dig0 (e : ErrCode) : (raise e s).dig0 = s.dig0 := rfl
@[simp] theorem raise_dig1 (e : ErrCode) : (raise e s).dig1 = s.dig1 := rfl
@[simp] theorem raise_dig2 (e : ErrCode) : (raise e s).dig2 = s.dig2 := rfl
@[simp] theorem raise_dig3 (e : ErrCode) : (raise e s).dig3 = s.dig3 := rfl
@[simp] theorem raise_phase (e : ErrCode) : (raise e s).phase = .idle := rfl
@[simp] theorem raise_plan (e : ErrCode) : (raise e s).plan = [] := rfl
@[simp] theorem raise_bytes (e : ErrCode) : (raise e s).bytes = [] := rfl
@[simp] theorem raise_mem (e : ErrCode) : (raise e s).mem = s.mem := rfl
@[simp] theorem raise_params (e : ErrCode) : (raise e s).params = s.params := rfl
@[simp] theorem raise_script (e : ErrCode) : (raise e s).script = s.script := rfl
@[simp] theorem raise_resp (e : ErrCode) : (raise e s).resp = s.resp := rfl
@[simp] theorem raise_readCount (e : ErrCode) : (raise e s).readCount = s.readCount := rfl

/-! `acceptBase` -/

@[simp] theorem acceptBase_ie (o : BitVec 4) : (acceptBase o s).ie = s.ie := rfl
@[simp] theorem acceptBase_done (o : BitVec 4) : (acceptBase o s).done = false := rfl
@[simp] theorem acceptBase_errcode (o : BitVec 4) : (acceptBase o s).errcode = 0#4 := rfl
@[simp] theorem acceptBase_drop (o : BitVec 4) : (acceptBase o s).drop = s.drop := rfl
@[simp] theorem acceptBase_cmdOpc (o : BitVec 4) : (acceptBase o s).cmdOpc = o := rfl
@[simp] theorem acceptBase_len (o : BitVec 4) : (acceptBase o s).len = s.len := rfl
@[simp] theorem acceptBase_srcLo (o : BitVec 4) : (acceptBase o s).srcLo = s.srcLo := rfl
@[simp] theorem acceptBase_srcHi (o : BitVec 4) : (acceptBase o s).srcHi = s.srcHi := rfl
@[simp] theorem acceptBase_seedLo (o : BitVec 4) : (acceptBase o s).seedLo = s.seedLo := rfl
@[simp] theorem acceptBase_seedHi (o : BitVec 4) : (acceptBase o s).seedHi = s.seedHi := rfl
@[simp] theorem acceptBase_dig0 (o : BitVec 4) : (acceptBase o s).dig0 = 0#32 := rfl
@[simp] theorem acceptBase_dig1 (o : BitVec 4) : (acceptBase o s).dig1 = 0#32 := rfl
@[simp] theorem acceptBase_dig2 (o : BitVec 4) : (acceptBase o s).dig2 = 0#32 := rfl
@[simp] theorem acceptBase_dig3 (o : BitVec 4) : (acceptBase o s).dig3 = 0#32 := rfl
@[simp] theorem acceptBase_phase (o : BitVec 4) : (acceptBase o s).phase = s.phase := rfl
@[simp] theorem acceptBase_plan (o : BitVec 4) : (acceptBase o s).plan = s.plan := rfl
@[simp] theorem acceptBase_bytes (o : BitVec 4) : (acceptBase o s).bytes = s.bytes := rfl
@[simp] theorem acceptBase_mem (o : BitVec 4) : (acceptBase o s).mem = s.mem := rfl
@[simp] theorem acceptBase_params (o : BitVec 4) : (acceptBase o s).params = s.params := rfl
@[simp] theorem acceptBase_script (o : BitVec 4) : (acceptBase o s).script = s.script := rfl
@[simp] theorem acceptBase_resp (o : BitVec 4) : (acceptBase o s).resp = s.resp := rfl
@[simp] theorem acceptBase_readCount (o : BitVec 4) : (acceptBase o s).readCount = s.readCount := rfl

/-! `dropWrite` -/

@[simp] theorem dropWrite_ie : (dropWrite s).ie = s.ie := rfl
@[simp] theorem dropWrite_done : (dropWrite s).done = s.done := rfl
@[simp] theorem dropWrite_errcode : (dropWrite s).errcode = s.errcode := rfl
@[simp] theorem dropWrite_drop : (dropWrite s).drop = true := rfl
@[simp] theorem dropWrite_cmdOpc : (dropWrite s).cmdOpc = s.cmdOpc := rfl
@[simp] theorem dropWrite_len : (dropWrite s).len = s.len := rfl
@[simp] theorem dropWrite_srcLo : (dropWrite s).srcLo = s.srcLo := rfl
@[simp] theorem dropWrite_srcHi : (dropWrite s).srcHi = s.srcHi := rfl
@[simp] theorem dropWrite_seedLo : (dropWrite s).seedLo = s.seedLo := rfl
@[simp] theorem dropWrite_seedHi : (dropWrite s).seedHi = s.seedHi := rfl
@[simp] theorem dropWrite_dig0 : (dropWrite s).dig0 = s.dig0 := rfl
@[simp] theorem dropWrite_dig1 : (dropWrite s).dig1 = s.dig1 := rfl
@[simp] theorem dropWrite_dig2 : (dropWrite s).dig2 = s.dig2 := rfl
@[simp] theorem dropWrite_dig3 : (dropWrite s).dig3 = s.dig3 := rfl
@[simp] theorem dropWrite_phase : (dropWrite s).phase = s.phase := rfl
@[simp] theorem dropWrite_plan : (dropWrite s).plan = s.plan := rfl
@[simp] theorem dropWrite_bytes : (dropWrite s).bytes = s.bytes := rfl
@[simp] theorem dropWrite_mem : (dropWrite s).mem = s.mem := rfl
@[simp] theorem dropWrite_params : (dropWrite s).params = s.params := rfl
@[simp] theorem dropWrite_script : (dropWrite s).script = s.script := rfl
@[simp] theorem dropWrite_resp : (dropWrite s).resp = s.resp := rfl
@[simp] theorem dropWrite_readCount : (dropWrite s).readCount = s.readCount := rfl

/-! `resetCore` -/

@[simp] theorem resetCore_ie : (resetCore s).ie = false := rfl
@[simp] theorem resetCore_done : (resetCore s).done = false := rfl
@[simp] theorem resetCore_errcode : (resetCore s).errcode = 0#4 := rfl
@[simp] theorem resetCore_drop : (resetCore s).drop = false := rfl
@[simp] theorem resetCore_cmdOpc : (resetCore s).cmdOpc = 0#4 := rfl
@[simp] theorem resetCore_len : (resetCore s).len = 0#32 := rfl
@[simp] theorem resetCore_srcLo : (resetCore s).srcLo = 0#32 := rfl
@[simp] theorem resetCore_srcHi : (resetCore s).srcHi = 0#32 := rfl
@[simp] theorem resetCore_seedLo : (resetCore s).seedLo = 0#32 := rfl
@[simp] theorem resetCore_seedHi : (resetCore s).seedHi = 0#32 := rfl
@[simp] theorem resetCore_dig0 : (resetCore s).dig0 = 0#32 := rfl
@[simp] theorem resetCore_dig1 : (resetCore s).dig1 = 0#32 := rfl
@[simp] theorem resetCore_dig2 : (resetCore s).dig2 = 0#32 := rfl
@[simp] theorem resetCore_dig3 : (resetCore s).dig3 = 0#32 := rfl
@[simp] theorem resetCore_phase : (resetCore s).phase = .idle := rfl
@[simp] theorem resetCore_plan : (resetCore s).plan = [] := rfl
@[simp] theorem resetCore_bytes : (resetCore s).bytes = [] := rfl
@[simp] theorem resetCore_mem : (resetCore s).mem = s.mem := rfl
@[simp] theorem resetCore_params : (resetCore s).params = s.params := rfl
@[simp] theorem resetCore_script : (resetCore s).script = s.script := rfl
@[simp] theorem resetCore_resp : (resetCore s).resp = s.resp := rfl
@[simp] theorem resetCore_readCount : (resetCore s).readCount = s.readCount := rfl

/-! `writeStatus` -/

@[simp] theorem writeStatus_ie (v : Word) : (writeStatus v s).ie = s.ie := rfl
@[simp] theorem writeStatus_done (v : Word) : (writeStatus v s).done = (s.done && !v.getLsbD 1) := rfl
@[simp] theorem writeStatus_errcode (v : Word) : (writeStatus v s).errcode = s.errcode := rfl
@[simp] theorem writeStatus_drop (v : Word) : (writeStatus v s).drop = (s.drop && !v.getLsbD 8) := rfl
@[simp] theorem writeStatus_cmdOpc (v : Word) : (writeStatus v s).cmdOpc = s.cmdOpc := rfl
@[simp] theorem writeStatus_len (v : Word) : (writeStatus v s).len = s.len := rfl
@[simp] theorem writeStatus_srcLo (v : Word) : (writeStatus v s).srcLo = s.srcLo := rfl
@[simp] theorem writeStatus_srcHi (v : Word) : (writeStatus v s).srcHi = s.srcHi := rfl
@[simp] theorem writeStatus_seedLo (v : Word) : (writeStatus v s).seedLo = s.seedLo := rfl
@[simp] theorem writeStatus_seedHi (v : Word) : (writeStatus v s).seedHi = s.seedHi := rfl
@[simp] theorem writeStatus_dig0 (v : Word) : (writeStatus v s).dig0 = s.dig0 := rfl
@[simp] theorem writeStatus_dig1 (v : Word) : (writeStatus v s).dig1 = s.dig1 := rfl
@[simp] theorem writeStatus_dig2 (v : Word) : (writeStatus v s).dig2 = s.dig2 := rfl
@[simp] theorem writeStatus_dig3 (v : Word) : (writeStatus v s).dig3 = s.dig3 := rfl
@[simp] theorem writeStatus_phase (v : Word) : (writeStatus v s).phase = s.phase := rfl
@[simp] theorem writeStatus_plan (v : Word) : (writeStatus v s).plan = s.plan := rfl
@[simp] theorem writeStatus_bytes (v : Word) : (writeStatus v s).bytes = s.bytes := rfl
@[simp] theorem writeStatus_mem (v : Word) : (writeStatus v s).mem = s.mem := rfl
@[simp] theorem writeStatus_params (v : Word) : (writeStatus v s).params = s.params := rfl
@[simp] theorem writeStatus_script (v : Word) : (writeStatus v s).script = s.script := rfl
@[simp] theorem writeStatus_resp (v : Word) : (writeStatus v s).resp = s.resp := rfl
@[simp] theorem writeStatus_readCount (v : Word) : (writeStatus v s).readCount = s.readCount := rfl

/-! `place` writes DIG0 to DIG3 and nothing else; `complete` ends the command besides. -/

@[simp] theorem place_ie (d : Digest) : (place d s).ie = s.ie := by cases d <;> rfl
@[simp] theorem complete_ie (d : Digest) : (complete d s).ie = s.ie := by cases d <;> rfl
@[simp] theorem place_done (d : Digest) : (place d s).done = s.done := by cases d <;> rfl
@[simp] theorem complete_done (d : Digest) : (complete d s).done = true := rfl
@[simp] theorem place_errcode (d : Digest) : (place d s).errcode = s.errcode := by cases d <;> rfl
@[simp] theorem complete_errcode (d : Digest) : (complete d s).errcode = 0#4 := rfl
@[simp] theorem place_drop (d : Digest) : (place d s).drop = s.drop := by cases d <;> rfl
@[simp] theorem complete_drop (d : Digest) : (complete d s).drop = s.drop := by cases d <;> rfl
@[simp] theorem place_cmdOpc (d : Digest) : (place d s).cmdOpc = s.cmdOpc := by cases d <;> rfl
@[simp] theorem complete_cmdOpc (d : Digest) : (complete d s).cmdOpc = s.cmdOpc := by cases d <;> rfl
@[simp] theorem place_len (d : Digest) : (place d s).len = s.len := by cases d <;> rfl
@[simp] theorem complete_len (d : Digest) : (complete d s).len = s.len := by cases d <;> rfl
@[simp] theorem place_srcLo (d : Digest) : (place d s).srcLo = s.srcLo := by cases d <;> rfl
@[simp] theorem complete_srcLo (d : Digest) : (complete d s).srcLo = s.srcLo := by cases d <;> rfl
@[simp] theorem place_srcHi (d : Digest) : (place d s).srcHi = s.srcHi := by cases d <;> rfl
@[simp] theorem complete_srcHi (d : Digest) : (complete d s).srcHi = s.srcHi := by cases d <;> rfl
@[simp] theorem place_seedLo (d : Digest) : (place d s).seedLo = s.seedLo := by cases d <;> rfl
@[simp] theorem complete_seedLo (d : Digest) : (complete d s).seedLo = s.seedLo := by cases d <;> rfl
@[simp] theorem place_seedHi (d : Digest) : (place d s).seedHi = s.seedHi := by cases d <;> rfl
@[simp] theorem complete_seedHi (d : Digest) : (complete d s).seedHi = s.seedHi := by cases d <;> rfl
@[simp] theorem complete_dig0 (d : Digest) : (complete d s).dig0 = (place d s).dig0 := rfl
@[simp] theorem complete_dig1 (d : Digest) : (complete d s).dig1 = (place d s).dig1 := rfl
@[simp] theorem complete_dig2 (d : Digest) : (complete d s).dig2 = (place d s).dig2 := rfl
@[simp] theorem complete_dig3 (d : Digest) : (complete d s).dig3 = (place d s).dig3 := rfl
@[simp] theorem place_phase (d : Digest) : (place d s).phase = s.phase := by cases d <;> rfl
@[simp] theorem complete_phase (d : Digest) : (complete d s).phase = .idle := rfl
@[simp] theorem place_plan (d : Digest) : (place d s).plan = s.plan := by cases d <;> rfl
@[simp] theorem complete_plan (d : Digest) : (complete d s).plan = [] := rfl
@[simp] theorem place_bytes (d : Digest) : (place d s).bytes = s.bytes := by cases d <;> rfl
@[simp] theorem complete_bytes (d : Digest) : (complete d s).bytes = [] := rfl
@[simp] theorem place_mem (d : Digest) : (place d s).mem = s.mem := by cases d <;> rfl
@[simp] theorem complete_mem (d : Digest) : (complete d s).mem = s.mem := by cases d <;> rfl
@[simp] theorem place_params (d : Digest) : (place d s).params = s.params := by cases d <;> rfl
@[simp] theorem complete_params (d : Digest) : (complete d s).params = s.params := by cases d <;> rfl
@[simp] theorem place_script (d : Digest) : (place d s).script = s.script := by cases d <;> rfl
@[simp] theorem complete_script (d : Digest) : (complete d s).script = s.script := by cases d <;> rfl
@[simp] theorem place_resp (d : Digest) : (place d s).resp = s.resp := by cases d <;> rfl
@[simp] theorem complete_resp (d : Digest) : (complete d s).resp = s.resp := by cases d <;> rfl
@[simp] theorem place_readCount (d : Digest) : (place d s).readCount = s.readCount := by cases d <;> rfl
@[simp] theorem complete_readCount (d : Digest) : (complete d s).readCount = s.readCount := by cases d <;> rfl

end Sys2Proof.Machine
end

