-- ==== Sys2Proof/Laws/Ops.lean ====
section
/-! SUPPORT. What each shared operation can do, once: the acceptance of a command, the engine's steps, a
register write, a step. -/

namespace Sys2Proof.Machine

theorem busy_iff {s : State} : s.busy = true ↔ s.phase = .run := by simp [State.busy]

theorem not_busy_iff {s : State} : s.busy = false ↔ s.phase = .idle := by
  cases h : s.phase <;> simp [State.busy, h]

@[simp] theorem variantOfOpc_opc (v : Variant) : variantOfOpc v.opc = some v := by cases v <;> rfl

theorem opc_of_variantOfOpc {o : BitVec 4} {v : Variant} (h : variantOfOpc o = some v) : v.opc = o := by
  simpa using List.find?_some h

/-- The acceptance checks pass exactly when R284 to R287 hold. -/
theorem acceptError_none_iff {p : Params} {v : Variant} {src l : Nat} :
    acceptError p v src l = none ↔ Accepts p v src l := by
  have hz : 0 < wordCount v src l ∨ wordCount v src l = 0 := by omega
  unfold acceptError
  constructor
  · intro h
    split_ifs at h with h1 h2 h3 h4
    refine ⟨by simpa using h1, by omega, by omega, ?_⟩
    cases hm : p.misalignedRd
    · simp only [hm, Bool.not_false, Bool.true_and, Bool.and_eq_true, decide_eq_true_eq] at h4
      rcases hz with hz | hz
      · right; right; by_contra hne; exact h4 ⟨hz, hne⟩
      · exact .inr (.inl hz)
    · exact .inl rfl
  · rintro ⟨h1, h2, h3, h4⟩
    rw [if_neg (by simp [h1]), if_neg (by omega), if_neg (by omega), if_neg]
    rcases h4 with h4 | h4 | h4 <;> simp [h4]

/-- A variant command's meaning, whichever of the eleven it is. -/
theorem exec_of_variant {i : Instr} {v : Variant} (h : variantOfOpc i.opc = some v) (s : State) :
    exec i s = .next (submitVariant v s) := by
  cases i <;> cases h <;> rfl

/-- A reserved command's meaning, whichever of the five it is. -/
theorem exec_of_reserved {i : Instr} (h : variantOfOpc i.opc = none) (s : State) :
    exec i s = .next (submitReserved i.opc s) := by
  cases i <;> first | rfl | cases h

theorem exec_total (i : Instr) (s : State) : ∃ t, exec i s = .next t := by
  cases h : variantOfOpc i.opc with
  | none => exact ⟨_, exec_of_reserved h s⟩
  | some v => exact ⟨_, exec_of_variant h s⟩

/-- The state acceptance leaves when every check passes (40_operation.md R142, R144). -/
def accepted (v : Variant) (s : State) : State :=
  { acceptBase v.opc s with phase := .run, plan := commandPlan v s, bytes := [] }

/-- Everything a command write can do (40_operation.md R141 to R144, 10_state.md R36). -/
theorem exec_cases {i : Instr} {s t : State} (h : exec i s = .next t) :
    (s.phase = .run ∧ t = dropWrite s) ∨
    (s.phase = .idle ∧ ∃ e, t = raise e (acceptBase i.opc s)) ∨
    (s.phase = .idle ∧ ∃ v, variantOfOpc i.opc = some v ∧ Accepts s.params v s.src s.inputLen ∧
      t = accepted v s) := by
  cases hb : s.busy
  · have hi := not_busy_iff.1 hb
    cases hv : variantOfOpc i.opc with
    | none =>
      rw [exec_of_reserved hv] at h
      cases h
      exact .inr (.inl ⟨hi, .opc, by simp [submitReserved, submit, hb, accept]⟩)
    | some v =>
      rw [exec_of_variant hv] at h
      cases h
      simp only [submitVariant, submit, hb, accept, opc_of_variantOfOpc hv]
      cases he : acceptError s.params v s.src s.inputLen with
      | some e => exact .inr (.inl ⟨hi, e, rfl⟩)
      | none =>
        refine .inr (.inr ⟨hi, v, rfl, acceptError_none_iff.1 he, ?_⟩)
        simp [accepted, commandPlan, opc_of_variantOfOpc hv]
  · refine .inl ⟨busy_iff.1 hb, ?_⟩
    cases hv : variantOfOpc i.opc with
    | none => rw [exec_of_reserved hv] at h; cases h; simp [submitReserved, submit, hb]
    | some v => rw [exec_of_variant hv] at h; cases h; simp [submitVariant, submit, hb]

/-- The state a read step that returns data leaves (40_operation.md R150). -/
def afterRead (r : ReadReq) (rest : List ReadReq) (s : State) : State :=
  { s with
    plan := rest
    bytes := s.bytes ++ portRead s.params s.mem s.readCount r
    readCount := s.readCount + 1 }

/-- Everything an engine step can do (40_operation.md R140, R150, R155; 60_exceptions.md R288). -/
theorem engineStep_cases {s t : State} (h : engineStep s = .next t) :
    (s.phase = .idle ∧ t = s) ∨
    (s.phase = .run ∧ ∃ r rest, s.plan = r :: rest ∧ busFails s.params r = true ∧ t = raise .bus s) ∨
    (s.phase = .run ∧ ∃ r rest, s.plan = r :: rest ∧ busFails s.params r = false ∧ t = afterRead r rest s) ∨
    (s.phase = .run ∧ s.plan = [] ∧ ∃ v, variantOfOpc s.cmdOpc = some v ∧
      t = complete (digestOf v s) s) := by
  unfold engineStep at h
  split at h
  · rename_i hp; cases h; exact .inl ⟨hp, rfl⟩
  · rename_i r rest hp hl
    unfold readStep at h
    split_ifs at h with h1 h2 h3
    · cases h; exact .inr (.inl ⟨hp, r, rest, hl, h3, rfl⟩)
    · cases h; exact .inr (.inr (.inl ⟨hp, r, rest, hl, by simpa using h3, rfl⟩))
  · rename_i hp hl
    unfold completeStep at h
    split at h
    · rename_i v hv; cases h; exact .inr (.inr (.inr ⟨hp, hl, v, hv, rfl⟩))
    · cases h

/-- Reads return as many bytes as they ask for (20_memory.md R85). -/
@[simp] theorem length_portRead (p : Params) (m : List Host.Cell) (c : Nat) (r : ReadReq) :
    (portRead p m c r).length = r.size.bytes := by simp [portRead]

/-- What one step does to the core, its memory and the engine, the script and the bus response aside. -/
inductive Effect (s : State) : State → Prop
  | same : Effect s s
  | dropped (h : s.phase = .run) : Effect s (dropWrite s)
  | setLen (h : s.phase = .idle) (v : Word) : Effect s { s with len := v }
  | setSrcLo (h : s.phase = .idle) (v : Word) : Effect s { s with srcLo := v }
  | setSrcHi (h : s.phase = .idle) (hw : s.params.addrW = .w64) (v : Word) :
      Effect s { s with srcHi := v }
  | setSeedLo (h : s.phase = .idle) (v : Word) : Effect s { s with seedLo := v }
  | setSeedHi (h : s.phase = .idle) (v : Word) : Effect s { s with seedHi := v }
  | status (v : Word) : Effect s (writeStatus v s)
  | enable (b : Bool) : Effect s { s with ie := b }
  | reset : Effect s (resetCore s)
  | failed (h : s.phase = .idle) (o : BitVec 4) (e : ErrCode) : Effect s (raise e (acceptBase o s))
  | started (h : s.phase = .idle) (v : Variant) (ha : Accepts s.params v s.src s.inputLen) :
      Effect s (accepted v s)
  | busError (h : s.phase = .run) : Effect s (raise .bus s)
  | read (h : s.phase = .run) (r : ReadReq) (rest : List ReadReq) (hl : s.plan = r :: rest) :
      Effect s (afterRead r rest s)
  | completed (h : s.phase = .run) (hl : s.plan = []) (v : Variant)
      (hv : variantOfOpc s.cmdOpc = some v) : Effect s (complete (digestOf v s) s)
  | agent (a : Nat) (data : List Byte) (h : a + data.length ≤ spaceSize s.params) :
      Effect s { s with mem := memPutList s.mem a data }

theorem effect_of_exec {i : Instr} {s t : State} (h : exec i s = .next t) : Effect s t := by
  rcases exec_cases h with ⟨hp, rfl⟩ | ⟨hp, e, rfl⟩ | ⟨hp, v, hv, ha, rfl⟩
  · exact .dropped hp
  · exact .failed hp _ e
  · exact .started hp v ha

theorem effect_of_engineStep {s t : State} (h : engineStep s = .next t) : Effect s t := by
  rcases engineStep_cases h with ⟨_, rfl⟩ | ⟨hp, r, rest, hl, _, rfl⟩ | ⟨hp, r, rest, hl, _, rfl⟩ |
    ⟨hp, hl, v, hv, rfl⟩
  · exact .same
  · exact .busError hp
  · exact .read hp r rest hl
  · exact .completed hp hl v hv

/-- Everything a register write can do. -/
theorem effect_of_writeReg {r : Reg} {v : Word} {s t : State} (h : writeReg r v s = .next t) :
    Effect s t := by
  have guarded : ∀ u, (s.phase = .idle → Effect s u) → Effect s (guardedWrite u s) := fun u hu => by
    unfold guardedWrite
    split
    · rename_i hb; exact .dropped (busy_iff.1 hb)
    · rename_i hb; exact hu (not_busy_iff.1 (by simpa using hb))
  cases r <;> simp only [writeReg] at h
  case cmd => exact effect_of_exec h
  case ctrl =>
    cases h
    unfold writeCtrl
    split
    · exact .reset
    · exact .enable _
  case status => cases h; exact .status v
  case srcHi =>
    split at h
    · rename_i hw; cases h; exact guarded _ fun hp => .setSrcHi hp hw v
    · cases h; exact .same
  case len => cases h; exact guarded _ fun hp => .setLen hp v
  case srcLo => cases h; exact guarded _ fun hp => .setSrcLo hp v
  case seedLo => cases h; exact guarded _ fun hp => .setSeedLo hp v
  case seedHi => cases h; exact guarded _ fun hp => .setSeedHi hp v
  all_goals cases h; exact .same

/-- Everything a step can do: the script and the bus response move on (no new agent write among the
pending steps), and one of `Effect`'s cases holds. -/
theorem step_cases {s t : State} (h : step s = .next t) :
    ∃ script resp, (∀ a data, Event.memWrite a data ∈ script → Event.memWrite a data ∈ s.script) ∧
      Effect { s with script := script, resp := resp } t := by
  unfold step nextStep at h
  split at h
  · exact ⟨s.script, s.resp, fun _ _ h => h, effect_of_engineStep h⟩
  · rename_i e rest hs
    have tail : ∀ a data, Event.memWrite a data ∈ rest → Event.memWrite a data ∈ s.script := by
      rw [hs]; intro a data h; exact List.mem_cons_of_mem _ h
    cases e <;> simp only [runEvent] at h
    case hostRead addr size =>
      refine ⟨rest, t.resp, tail, ?_⟩
      simp only [hostRead] at h
      split at h
      · cases h; exact .same
      · split_ifs at h
        · split at h <;> (cases h; exact .same)
        · cases h; exact .same
    case hostWrite addr size v =>
      simp only [hostWrite] at h
      split at h
      · cases h; exact ⟨rest, _, tail, .same⟩
      · split_ifs at h
        · split at h
          · exact ⟨rest, .written, tail, effect_of_writeReg h⟩
          · cases h; exact ⟨rest, _, tail, .same⟩
        · cases h; exact ⟨rest, _, tail, .same⟩
    case waitDone =>
      simp only [hostWaitDone] at h
      split_ifs at h
      · cases h; exact ⟨rest, _, tail, .same⟩
      · cases h; exact ⟨.engine :: .waitDone :: rest, _, fun a d hm => tail a d (by simpa using hm), .same⟩
    case waitIrq =>
      simp only [hostWaitIrq] at h
      split_ifs at h
      · cases h; exact ⟨rest, _, tail, .same⟩
      · cases h; exact ⟨.engine :: .waitIrq :: rest, _, fun a d hm => tail a d (by simpa using hm), .same⟩
    case engine => exact ⟨rest, s.resp, tail, effect_of_engineStep h⟩
    case memWrite a data =>
      simp only [agentWrite] at h
      split_ifs at h with h1
      cases h
      exact ⟨rest, s.resp, tail, .agent (s := { s with script := rest }) a data (by simpa using h1)⟩
    case hardReset => cases h; exact ⟨rest, s.resp, tail, .reset⟩

end Sys2Proof.Machine
end

