-- ==== Sys2Proof/Laws/PerInstr.lean ====
section
/-! SUPPORT. What is said of every instruction as syntax, one lemma per constructor. -/

/-- The command word carries the OPC of 30_encoding.md R113 and R114 in bits [3:0] and the ignored bits
above it (R110). -/
def Sys2Proof.Laws.CommandWord.Statement (i : Sys2Proof.Instr) : Prop :=
  (Sys2Proof.encode i).extractLsb' 0 4 = i.opc ∧ (Sys2Proof.encode i).extractLsb' 4 28 = i.ignored

namespace Sys2Proof.Laws.CommandWord

/-- Either field of a word put together of two. -/
theorem fields (g : BitVec 28) (o : BitVec 4) :
    (g ++ o).extractLsb' 0 4 = o ∧ (g ++ o).extractLsb' 4 28 = g := by
  constructor <;> ext k hk <;> rw [BitVec.getElem_extractLsb', BitVec.getLsbD_append]
  · rw [if_pos (by omega), Nat.zero_add, BitVec.getLsbD_eq_getElem hk]
  · rw [if_neg (by omega), Nat.add_sub_cancel_left, BitVec.getLsbD_eq_getElem hk]

theorem hash1 (g : BitVec 28) : Statement (.hash1 g) := fields g _
theorem hash1a (g : BitVec 28) : Statement (.hash1a g) := fields g _
theorem hash2 (g : BitVec 28) : Statement (.hash2 g) := fields g _
theorem hash2a (g : BitVec 28) : Statement (.hash2a g) := fields g _
theorem hash2n (g : BitVec 28) : Statement (.hash2n g) := fields g _
theorem hash2al (g : BitVec 28) : Statement (.hash2al g) := fields g _
theorem hash64a (g : BitVec 28) : Statement (.hash64a g) := fields g _
theorem hash64b (g : BitVec 28) : Statement (.hash64b g) := fields g _
theorem hash3x86_32 (g : BitVec 28) : Statement (.hash3x86_32 g) := fields g _
theorem hash3x86_128 (g : BitVec 28) : Statement (.hash3x86_128 g) := fields g _
theorem hash3x64_128 (g : BitVec 28) : Statement (.hash3x64_128 g) := fields g _
theorem reserved0x0 (g : BitVec 28) : Statement (.reserved0x0 g) := fields g _
theorem reserved0xC (g : BitVec 28) : Statement (.reserved0xC g) := fields g _
theorem reserved0xD (g : BitVec 28) : Statement (.reserved0xD g) := fields g _
theorem reserved0xE (g : BitVec 28) : Statement (.reserved0xE g) := fields g _
theorem reserved0xF (g : BitVec 28) : Statement (.reserved0xF g) := fields g _

end Sys2Proof.Laws.CommandWord
end

