-- ==== Sys2Proof/WellFormed.lean ====
section
/-! DEFINITION. The checks on terms the types do not make already: a command word as a host should write
it (30_encoding.md R110), and the parameters (00_scope.md R10). The machine consults neither (log 14):
it runs every command word and every parameter value. -/

namespace Sys2Proof

/-- R110: bits [31:4] are ignored, "the host should write 0". -/
abbrev Instr.WellFormed (i : Instr) : Prop := i.ignored = 0#28

/-- A failing range of `P_BUS_ERROR` or a side-effect region lies in the read space (R10, 20_memory.md R81). -/
abbrev Params.WellFormed (p : Params) : Prop :=
  (∀ r ∈ p.busError, r.lo ≤ r.hi ∧ r.hi < 2 ^ p.addrW.bits) ∧
  (∀ r ∈ p.sideEffect, r.lo ≤ r.hi ∧ r.hi < 2 ^ p.addrW.bits)

end Sys2Proof
end

