-- ==== Sys2Proof/Tests/Slice0.lean ====
section
/-! SUPPORT. The model's own tests: words written out from the opcode map, digests, plans and outcomes of
95_test_vectors.md, and for each statement with hypotheses a state that meets them. -/

namespace Sys2Proof.Tests

open Sys2Proof Sys2Proof.Machine

/-! Decoding: the words of 30_encoding.md R113 and R114, bit by bit. -/

theorem test_decode_hash1_family :
    decodeWord 0b00000000000000000000000000000001#32 = .hash1 0#28 ∧
    decodeWord 0b00000000000000000000000000000010#32 = .hash1a 0#28 := by decide

theorem test_decode_hash2_family :
    decodeWord 0b00000000000000000000000000000011#32 = .hash2 0#28 ∧
    decodeWord 0b00000000000000000000000000000100#32 = .hash2a 0#28 ∧
    decodeWord 0b00000000000000000000000000000101#32 = .hash2n 0#28 ∧
    decodeWord 0b00000000000000000000000000000110#32 = .hash2al 0#28 ∧
    decodeWord 0b00000000000000000000000000000111#32 = .hash64a 0#28 ∧
    decodeWord 0b00000000000000000000000000001000#32 = .hash64b 0#28 := by decide

theorem test_decode_hash3_family :
    decodeWord 0b00000000000000000000000000001001#32 = .hash3x86_32 0#28 ∧
    decodeWord 0b00000000000000000000000000001010#32 = .hash3x86_128 0#28 ∧
    decodeWord 0b00000000000000000000000000001011#32 = .hash3x64_128 0#28 ∧
    decodeWord 0b11111111111111111111111111111001#32 = .hash3x86_32 0xFFFFFFF#28 := by decide

theorem test_decode_reserved_family :
    decodeWord 0b00000000000000000000000000000000#32 = .reserved0x0 0#28 ∧
    decodeWord 0b00000000000000000000000000001100#32 = .reserved0xC 0#28 ∧
    decodeWord 0b00000000000000000000000000001101#32 = .reserved0xD 0#28 ∧
    decodeWord 0b00000000000000000000000000001110#32 = .reserved0xE 0#28 ∧
    decodeWord 0b00000000000000000000000000001111#32 = .reserved0xF 0#28 := by decide

theorem test_decode_bytes :
    decodeBytes [0x79#8, 0x56#8, 0x34#8, 0x12#8] = .ok (.hash3x86_32 0x1234567#28) ∧
    decodeBytes [0x09#8, 0x00#8] = .error (.notOneWord 2) := by constructor <;> rfl

theorem test_decode_table_word :
    decodeTableWord 32 0x9 = some (.hash3x86_32 0#28) ∧ decodeTableWord 0 0x9 = none ∧
    decodeTableWord 64 0x9 = none := by decide

/-! Well-formedness: each check refuses an ill-formed term. -/

theorem test_wellFormed_ignored_bits :
    (Instr.hash1 0#28).WellFormed ∧ ¬ (Instr.hash1 1#28).WellFormed := by decide

theorem test_wellFormed_params : Params.default.WellFormed := by decide

theorem test_wellFormed_bus_error_order :
    ¬ Params.WellFormed { Params.default with busError := [⟨.one, 2, 1⟩] } := by decide

theorem test_wellFormed_bus_error_space :
    ¬ Params.WellFormed { Params.default with addrW := .w32, busError := [⟨.one, 0, 2 ^ 32⟩] } := by decide

theorem test_wellFormed_side_effect_order :
    ¬ Params.WellFormed { Params.default with sideEffect := [⟨2, 1⟩] } := by decide

theorem test_wellFormed_side_effect_space :
    ¬ Params.WellFormed { Params.default with sideEffect := [⟨0, 2 ^ 64⟩] } := by decide

/-! Small states. -/

/-- A running command whose reads are done: ENG.BYTES holds the input. -/
def readDone (opc : BitVec 4) (b : List Byte) (seedLo seedHi : Word) : State :=
  { State.reset with
    phase := .run
    cmdOpc := opc
    len := BitVec.ofNat 32 b.length
    bytes := b
    seedLo := seedLo
    seedHi := seedHi }

/-- An idle core with these operands and parameters. -/
def idleWith (p : Params) (src : Nat) (l : Word) : State :=
  { State.reset with
    params := p
    srcLo := BitVec.ofNat 32 src
    srcHi := BitVec.ofNat 32 (src / 2 ^ 32)
    len := l }

/-- DIG0 to DIG3 of an outcome. -/
def digits : Host.Outcome State Fault Refusal → List Word
  | .next s => [s.dig0, s.dig1, s.dig2, s.dig3]
  | _ => []

/-- STATUS of an outcome. -/
def status : Host.Outcome State Fault Refusal → Option Word
  | .next s => some (statusWord s)
  | _ => none

/-- ENG.PLAN of an outcome, as (address, size) pairs. -/
def planned : Host.Outcome State Fault Refusal → List (Nat × Nat)
  | .next s => s.plan.map (fun r => (r.addr, r.size.bytes))
  | _ => []

/-- What the host read. -/
def answered : Host.Outcome State Fault Refusal → Option Response
  | .next s => some s.resp
  | _ => none

/-- The ASCII bytes of "abc". -/
def abc : List Byte := [0x61#8, 0x62#8, 0x63#8]

/-- The first 17 bytes of K (95_test_vectors.md). -/
def k17 : List Byte :=
  [0x54#8, 0x68#8, 0x65#8, 0x20#8, 0x71#8, 0x75#8, 0x69#8, 0x63#8, 0x6B#8, 0x20#8, 0x62#8, 0x72#8,
   0x6F#8, 0x77#8, 0x6E#8, 0x20#8, 0x66#8]

/-- Fifteen bytes FF. -/
def ff15 : List Byte := List.replicate 15 0xFF#8

/-- The port that takes no misaligned read. -/
def strict : Params := { Params.default with misalignedRd := false }

/-! Digests, one completion step each (95_test_vectors.md 3.2 to 3.5). -/

theorem test_hash1_block_and_tail :
    digits (engineStep (readDone 0x1#4 (k17.take 7) 0x9747B28C#32 0#32)) =
      [0x1C4F83B3#32, 0#32, 0#32, 0#32] := by decide

theorem test_hash1_high_bytes :
    digits (engineStep (readDone 0x1#4 ff15 0xFFFFFFFF#32 0#32)) =
      [0x5C91A241#32, 0#32, 0#32, 0#32] := by decide

theorem test_hash1a_ignores_seed_hi :
    digits (engineStep (readDone 0x2#4 abc 0#32 0xDEADBEEF#32)) =
      [0x64E49844#32, 0#32, 0#32, 0#32] := by decide

theorem test_hash2_block_and_tail :
    digits (engineStep (readDone 0x3#4 (k17.take 11) 0x9747B28C#32 0#32)) =
      [0xD16B15DE#32, 0#32, 0#32, 0#32] := by decide

theorem test_hash2a_tail_then_length :
    digits (engineStep (readDone 0x4#4 (k17.take 6) 0x9747B28C#32 0#32)) =
      [0x961A39DC#32, 0#32, 0#32, 0#32] := by decide

theorem test_hash2a_high_bytes :
    digits (engineStep (readDone 0x4#4 ff15 0#32 0#32)) = [0x0A37E359#32, 0#32, 0#32, 0#32] := by decide

theorem test_hash2n_abc :
    digits (engineStep (readDone 0x5#4 abc 1#32 0#32)) = [0x60A4FCC1#32, 0#32, 0#32, 0#32] := by decide

theorem test_hash2al_abc :
    digits (engineStep (readDone 0x6#4 abc 0#32 0#32)) = [0x13577C9B#32, 0#32, 0#32, 0#32] := by decide

theorem test_hash64a_full_seed :
    digits (engineStep (readDone 0x7#4 abc 0x89ABCDEF#32 0x01234567#32)) =
      [0x40CA7A84#32, 0xBF0A31DB#32, 0#32, 0#32] := by decide

theorem test_hash64a_block_and_tail :
    digits (engineStep (readDone 0x7#4 (k17.take 15) 0x9747B28C#32 0#32)) =
      [0x6EB6DD3E#32, 0xCB17BF6E#32, 0#32, 0#32] := by decide

theorem test_hash64b_full_seed :
    digits (engineStep (readDone 0x8#4 abc 0x89ABCDEF#32 0x01234567#32)) =
      [0x45956A08#32, 0x3B63DE11#32, 0#32, 0#32] := by decide

theorem test_hash64b_extra_word :
    digits (engineStep (readDone 0x8#4 (k17.take 15) 0x9747B28C#32 0#32)) =
      [0xF08A30EA#32, 0xA3904E7B#32, 0#32, 0#32] := by decide

theorem test_hash3x86_32_block_and_tail :
    digits (engineStep (readDone 0x9#4 (k17.take 7) 0x9747B28C#32 0#32)) =
      [0x4BBD85C2#32, 0#32, 0#32, 0#32] := by decide

theorem test_hash3x86_128_block_and_tail :
    digits (engineStep (readDone 0xA#4 k17 0x9747B28C#32 0#32)) =
      [0x57F97C24#32, 0x6AD7E2E5#32, 0x24065B98#32, 0x1DDBCE58#32] := by decide

theorem test_hash3x86_128_longest_tail :
    digits (engineStep (readDone 0xA#4 ff15 0xFFFFFFFF#32 0#32)) =
      [0x12D8F403#32, 0xC23E66D9#32, 0x9CECD6E5#32, 0x248CD159#32] := by decide

theorem test_hash3x64_128_block_and_tail :
    digits (engineStep (readDone 0xB#4 k17 0x9747B28C#32 0#32)) =
      [0x209E3DB1#32, 0x41E6AC8E#32, 0xF806E5E2#32, 0x6FB5CD54#32] := by decide

theorem test_hash3x64_128_longest_tail :
    digits (engineStep (readDone 0xB#4 ff15 0xFFFFFFFF#32 0#32)) =
      [0x7EBA0961#32, 0xB23FAD37#32, 0x10E7ED66#32, 0xD76F86B3#32] := by decide

/-- The mixes of 95_test_vectors.md 3.1. -/
theorem test_mixes :
    fmix32 0x80000000#32 = 0x6D3C65A0#32 ∧ fmix64 0x8000000000000000#64 = 0x8F780810AF31A493#64 ∧
    mmix 0x12345678#32 0x9ABCDEF0#32 = 0xC96C4680#32 := by decide

/-! Plans, one acceptance step each (95_test_vectors.md 3.6). -/

theorem test_plan_hash1_unaligned :
    planned (exec (.hash1 0#28) (idleWith .default 0x1001 6#32)) =
      [(0x1001, 4), (0x1005, 1), (0x1006, 1)] := by decide

theorem test_plan_hash1a_unaligned :
    planned (exec (.hash1a 0#28) (idleWith .default 0x1001 6#32)) =
      [(0x1001, 1), (0x1002, 1), (0x1003, 1), (0x1004, 1), (0x1005, 1), (0x1006, 1)] := by decide

theorem test_plan_hash2n :
    planned (exec (.hash2n 0#28) (idleWith .default 0x1000 5#32)) =
      [(0x1000, 1), (0x1001, 1), (0x1002, 1), (0x1003, 1), (0x1004, 1)] := by decide

theorem test_plan_hash64a :
    planned (exec (.hash64a 0#28) (idleWith .default 0x2000 11#32)) =
      [(0x2000, 8), (0x2008, 1), (0x2009, 1), (0x200A, 1)] := by decide

theorem test_plan_hash64b :
    planned (exec (.hash64b 0#28) (idleWith .default 0x2000 15#32)) =
      [(0x2000, 4), (0x2004, 4), (0x2008, 4), (0x200C, 1), (0x200D, 1), (0x200E, 1)] := by decide

theorem test_plan_hash3x86_128 :
    planned (exec (.hash3x86_128 0#28) (idleWith .default 0x1000 21#32)) =
      [(0x1000, 4), (0x1004, 4), (0x1008, 4), (0x100C, 4), (0x1010, 1), (0x1011, 1), (0x1012, 1),
       (0x1013, 1), (0x1014, 1)] := by decide

theorem test_plan_hash3x64_128 :
    planned (exec (.hash3x64_128 0#28) (idleWith .default 0x1000 17#32)) =
      [(0x1000, 8), (0x1008, 8), (0x1010, 1)] := by decide

/-! Acceptance outcomes (95_test_vectors.md 3.7). -/

theorem test_e2_reserved_before_length :
    status (exec (.reserved0xF 0#28) (idleWith .default 0x1000 0x80000000#32)) = some 0x00000016#32 := by
  decide

theorem test_e3_absent_variant :
    status (exec (.hash3x86_32 0#28) (idleWith { Params.default with variants := 0x6FF#11 } 0x1000 3#32)) =
      some 0x00000026#32 ∧
    capsWord { Params.default with variants := 0x6FF#11 } = 0x00030DFE#32 := by decide

theorem test_e4_length :
    status (exec (.hash1 0#28) (idleWith .default 0x1000 0x80000000#32)) = some 0x00000036#32 := by decide

theorem test_e6_range :
    status (exec (.hash1 0#28) (idleWith .default 0xFFFFFFFFFFFFFFFF 2#32)) = some 0x00000046#32 := by
  decide

theorem test_e7_range_ends_at_top :
    status (exec (.hash1 0#28) (idleWith .default 0xFFFFFFFFFFFFFFFF 1#32)) = some 0x00000001#32 := by
  decide

theorem test_e9_range_32 :
    status (exec (.hash3x86_32 0#28) (idleWith { Params.default with addrW := .w32 } 0xFFFFFFFE 3#32)) =
      some 0x00000046#32 := by decide

theorem test_e11_align :
    status (exec (.hash1 0#28) (idleWith strict 0x1001 4#32)) = some 0x00000056#32 := by decide

theorem test_e13_aligned_discipline :
    status (exec (.hash1a 0#28) (idleWith strict 0x1001 4#32)) = some 0x00000001#32 := by decide

theorem test_e16_sub_blocks :
    status (exec (.hash64b 0#28) (idleWith strict 0x1004 8#32)) = some 0x00000001#32 := by decide

theorem test_e19_align_eight :
    status (exec (.hash3x64_128 0#28) (idleWith strict 0x1004 16#32)) = some 0x00000056#32 := by decide

/-- E21: reads that pass 0x3000 fail. -/
def failing : Params :=
  { Params.default with
    busError := [⟨.one, 0x3000, 2 ^ 64 - 1⟩, ⟨.four, 0x2FFD, 2 ^ 64 - 1⟩, ⟨.eight, 0x2FF9, 2 ^ 64 - 1⟩] }

/-- The command of E21 after its first read. -/
def e21 : State :=
  { idleWith failing 0x2FFC 6#32 with
    phase := .run
    cmdOpc := 0x9#4
    plan := [⟨0x3000, .one⟩, ⟨0x3001, .one⟩]
    bytes := [0#8, 0#8, 0#8, 0#8] }

theorem test_e21_bus_error : status (engineStep e21) = some 0x00000066#32 := by decide

/-! The register window (95_test_vectors.md 3.8). -/

theorem test_v3_caps :
    capsWord { Params.default with addrW := .w32, misalignedRd := false } = 0x00000FFE#32 := by decide

theorem test_v8_soft_reset_wins :
    step { State.reset with ie := true, script := [.hostWrite 0x0C 4 0x3#32] } =
      .next { State.reset with resp := .written } := by rfl

theorem test_v9_cmd_reads_back :
    status (exec (decodeWord 0x12345679#32) State.reset) = some 0x00000001#32 ∧
    answered (step { State.reset with cmdOpc := 9#4, script := [.hostRead 0x14 4] }) =
      some (.data 0x00000009#32) := by decide

theorem test_v13_done_cleared_code_kept :
    answered (step { State.reset with errcode := 1#4, script := [.hostRead 0x10 4] }) =
      some (.data 0x00000014#32) := by decide

theorem test_read_step_little_endian_bytes :
    engineStep { readDone 0x9#4 [] 0#32 0#32 with plan := [⟨0x1000, .four⟩], mem := [(0x1001, 0xAB#8)] } =
      .next { readDone 0x9#4 [0#8, 0xAB#8, 0#8, 0#8] 0#32 0#32 with
        len := 0#32, readCount := 1, mem := [(0x1001, 0xAB#8)] } := by rfl

theorem test_agent_write_of_zero_unlists :
    memPutList [(1, 0xAA#8), (2, 0xBB#8)] 1 [0#8, 0xCC#8] = [(2, 0xCC#8)] := by decide

/-! Witnesses: for each statement with hypotheses, a state that meets them. -/

/-- Idle, "abc" at 0x1000, three bytes to hash, seed 0x0123456789ABCDEF. -/
def ready : State :=
  { idleWith .default 0x1000 3#32 with
    mem := [(0x1000, 0x61#8), (0x1001, 0x62#8), (0x1002, 0x63#8)]
    seedLo := 0x89ABCDEF#32
    seedHi := 0x01234567#32 }

/-- `ready` accepts all eleven commands. -/
theorem ready_accepts (v : Variant) : Accepts ready.params v ready.src ready.inputLen := by
  cases v <;> exact ⟨by decide, by decide, by decide, .inl rfl⟩

/-! The witness of each statement that has hypotheses:
EncodeOfDecodeIsTheWord: witness_EncodeOfDecodeIsTheWord.
IgnoredBitsNeverChangeTheCommand: witness_IgnoredBits.
StepRunsTheDecodedCommand: witness_Writes.
VariantCommandIsAccepted: witness_VariantCommandIsAccepted.
ReservedCommandEndsWithErrOpc: witness_ReservedCommand.
FirstFailingCheckEndsTheCommand: witness_VariantCommandIsAccepted, witness_FirstFailingCheck.
AlignedCommandsNeverEndWithErrAlign: witness_AlignedCommands.
CommandWhileBusyOnlySetsDrop: witness_Running.
AcceptanceNeverLooksAtMemory, CommandFrame: witness_Acceptance_total, witness_VariantCommandIsAccepted.
PlanFollowsTheDiscipline, PlanReadsEachByteOnceInOrder: witness_Plan.
WordReadsAreLittleEndian: witness_WordReads.
ReadStepAppendsTheBytesRead: witness_ReadStep.
FailedReadEndsWithErrBus: witness_FailedRead.
CompletionPlacesTheDigest: witness_Running.
IdleEngineTakesNoStep: witness_IdleEngine.
The six statements of whole commands that use RunsTo: witness_RunsTo, for each variant.
WrittenCommandCompletesWithinLPlusTwoSteps: witness_WrittenCommand, witness_WrittenAgain.
RunningCommandCompletesWithinLPlusOneEngineSteps, EveryStepKeepsTheInvariant, InvariantStatesAreSafe,
OperandsStayFixedWhileACommandRuns: witness_CoreInv.
DisciplinesDifferOnlyByErrAlign: witness_Disciplines, witness_Disciplines2.
SeedHiIsNotReadBy32BitSeedCommands: witness_SeedHi.
EmptyInputCompletesWithoutReading: witness_EmptyInput.
ShortInputLeavesLanesTwoToFourEqual: witness_ShortInput.
TailBytesAreMixedAsLittleEndianWords: witness_Tails.
HostReadReturnsTheRegister, StatusReadShowsItsFields, CapsReadShowsTheParameters: witness_Reads, witness_SrcHi.
ReservedOffsetsReadZeroAndIgnoreWrites: witness_Reads, witness_Writes, witness_SrcHi.
WritesToReadOnlyRegistersAreIgnored, ControlAndStatusWrites: witness_Writes.
MalformedAccessChangesNothing: witness_Malformed.
OperandWritesWhileBusyOnlySetDrop, OperandWritesWhileIdleSetTheRegister: witness_Writes, witness_SrcHi, with
witness_Running for the busy state.
HashPseudoInstructionIssuesTheCommand: witness_HashProgram.
WaitsGoOnOnlyWhenTheirConditionHolds: witness_Waits.
SoftAndHardResetGiveTheResetState: witness_HardReset, witness_Writes.
OnlyAnAgentsWriteChangesMemory, AgentWriteThenReadReturnsTheBytes: witness_AgentWrite.
DropChangesOnlyByItsRules: witness_Drop.
BusyAndDoneChangeOnlyByTheirRules: witness_Rises, witness_Falls.
DigestChangesOnlyByAcceptanceCompletionOrReset, NoStepWritesAReservedErrorCode,
IrqRisesOnlyByCompletionOrEnable: witness_Rises. -/

/-- No read of `ready`'s commands fails and its range is plain (the hypotheses of `RunsTo`). -/
theorem witness_RunsTo (v : Variant) :
    ready.phase = .idle ∧ Accepts ready.params v ready.src ready.inputLen ∧
      BusOk ready.params (commandPlan v ready) ∧ PlainRange ready.params ready.src ready.inputLen :=
  ⟨rfl, ready_accepts v, fun _ _ => rfl, fun _ _ => rfl⟩

/-- VariantCommandIsAccepted, FirstFailingCheckEndsTheCommand's and EmptyInput's common hypotheses. -/
theorem witness_VariantCommandIsAccepted :
    variantOfOpc (Instr.hash1 0#28).opc = some .hash1 ∧ ready.phase = .idle ∧
      Accepts ready.params .hash1 ready.src ready.inputLen := ⟨rfl, rfl, ready_accepts _⟩

theorem witness_EncodeOfDecodeIsTheWord : ([0x09#8, 0x00#8] : List Byte).length ≠ 4 := by decide

theorem witness_IgnoredBits :
    (0x00000009#32).extractLsb' 0 4 = (0xFFFFFFF9#32).extractLsb' 0 4 ∧
    ∃ t, exec (decodeWord 0x00000009#32) ready = .next t := ⟨by decide, _, rfl⟩

/-- StepRunsTheDecodedCommand, and every statement about a write at an offset. -/
theorem witness_Writes :
    (∀ o ∈ [0x0C, 0x10, 0x14, 0x18, 0x1C, 0x20, 0x24, 0x28, 0x2C, 0x30, 0xFC],
      Writes { ready with script := [.hostWrite o 4 0x2#32] } o 0x2#32 []) ∧
    decodeTableWord 32 0x9 = some (.hash3x86_32 0#28) := by
  refine ⟨?_, by decide⟩
  simp [Writes, ready, idleWith, Params.default]

/-- Every statement about a read at an offset. -/
theorem witness_Reads :
    ∀ o ∈ [0x00, 0x08, 0x0C, 0x10, 0x14, 0x18, 0x1C, 0x24, 0x3C, 0x40, 0xFC],
      Reads { ready with script := [.hostRead o 4] } o [] := by
  simp [Reads, ready, idleWith, Params.default]

theorem witness_ReservedCommand :
    (Instr.reserved0x0 0#28).opc = 0x0#4 ∧ (Instr.reserved0xC 0#28).opc = 0xC#4 ∧
    (Instr.reserved0xD 0#28).opc = 0xD#4 ∧ (Instr.reserved0xE 0#28).opc = 0xE#4 ∧
    (Instr.reserved0xF 0#28).opc = 0xF#4 ∧ ready.phase = .idle := by decide

/-- Each clause of FirstFailingCheckEndsTheCommand at the edge of its range. -/
theorem witness_FirstFailingCheck :
    implements { Params.default with variants := 0x7FE#11 } .hash1 = false ∧
    (implements Params.default .hash1 = true ∧ 2 ^ 31 ≤ (idleWith .default 0x1000 0x80000000#32).inputLen) ∧
    ((idleWith .default 0xFFFFFFFFFFFFFFFF 2#32).inputLen < 2 ^ 31 ∧
      spaceSize Params.default < (idleWith .default 0xFFFFFFFFFFFFFFFF 2#32).src + 2) ∧
    ((idleWith strict 0x1001 4#32).src + 4 ≤ spaceSize strict ∧ strict.misalignedRd = false ∧
      0 < wordCount .hash1 0x1001 4 ∧ (idleWith strict 0x1001 4#32).src % (wordSize .hash1).bytes ≠ 0) := by
  decide

theorem witness_AlignedCommands :
    variantOfOpc (Instr.hash1a 0#28).opc = some .hash1a ∧ (idleWith strict 0x1001 4#32).phase = .idle ∧
    (∃ t, exec (.hash1a 0#28) (idleWith strict 0x1001 4#32) = .next t) ∧ Params.default.misalignedRd = true :=
  ⟨rfl, rfl, ⟨_, rfl⟩, rfl⟩

/-- CommandWhileBusy, OperandWritesWhileBusy, CompletionPlacesTheDigest: a running command, each OPC. -/
theorem witness_Running :
    ∀ o ∈ [0x1#4, 0x2#4, 0x3#4, 0x4#4, 0x5#4, 0x6#4, 0x7#4, 0x8#4, 0x9#4, 0xA#4, 0xB#4],
      (readDone o abc 0#32 0#32).phase = .run ∧ (readDone o abc 0#32 0#32).plan = [] ∧
        (readDone o abc 0#32 0#32).cmdOpc = o := by decide

theorem witness_Acceptance_total : ∃ t, exec (.hash2 0#28) ready = .next t := ⟨_, rfl⟩

/-- PlanFollowsTheDiscipline, PlanReadsEachByteOnceInOrder: a range that ends at the top. -/
theorem witness_Plan :
    (2 ^ 64 - 7) + 7 ≤ spaceSize Params.default ∧ 0 + 0 ≤ spaceSize Params.default := by decide

theorem witness_WordReads : (3 : Nat) < 4 ∧ (7 : Nat) < 8 := by decide

/-- ReadStepAppendsTheBytesRead: the last word of the space, on a port that takes no misaligned read. -/
theorem witness_ReadStep :
    (2 ^ 64 - 4) + ReadSize.four.bytes ≤ spaceSize strict ∧ (2 ^ 64 - 4) % ReadSize.four.bytes = 0 ∧
    busFails strict ⟨2 ^ 64 - 4, .four⟩ = false ∧
    { readDone 9#4 [] 0#32 0#32 with plan := [⟨2 ^ 64 - 4, .four⟩], params := strict }.plan =
      [⟨2 ^ 64 - 4, .four⟩] :=
  ⟨by decide, by decide, rfl, rfl⟩

theorem witness_FailedRead :
    e21.phase = .run ∧ e21.plan = ⟨0x3000, .one⟩ :: [⟨0x3001, .one⟩] ∧
    0x3000 + ReadSize.one.bytes ≤ spaceSize e21.params ∧ e21.params.misalignedRd = true ∧
    busFails e21.params ⟨0x3000, .one⟩ = true := by decide

theorem witness_IdleEngine : ready.phase = .idle ∧ ready.script = [] := by decide

/-- WrittenCommandCompletesWithinLPlusTwoSteps: the same command once more before the host acknowledges the
last completion (60_exceptions.md R293). -/
theorem witness_WrittenAgain :
    Writes { ready with done := true, cmdOpc := 0x9#4, script := [.hostWrite 0x14 4 0x9#32] } 0x14
      (encode (.hash3x86_32 0#28)) [] ∧
    ∃ t, Host.Core.run Sys2Proof.core 5
        { ready with done := true, cmdOpc := 0x9#4, script := [.hostWrite 0x14 4 0x9#32] } = .next t ∧
      t.script = [] ∧ t.phase = .idle ∧ t.done = true := ⟨rfl, _, rfl, rfl, rfl, rfl⟩

/-- WrittenCommandCompletesWithinLPlusTwoSteps. -/
theorem witness_WrittenCommand :
    Writes { ready with script := [.hostWrite 0x14 4 0x9#32] } 0x14 (encode (.hash3x86_32 0#28)) [] ∧
    Accepts ready.params .hash3x86_32 ready.src ready.inputLen ∧
    BusOk ready.params (commandPlan .hash3x86_32 ready) :=
  ⟨rfl, ready_accepts _, fun _ _ => rfl⟩

/-- `ready` running HASH3X86_32, after one of its three reads. -/
def running : State :=
  { ready with
    phase := .run
    cmdOpc := 0x9#4
    plan := [⟨0x1001, .one⟩, ⟨0x1002, .one⟩]
    bytes := [0x61#8]
    readCount := 1 }

/-- The invariant statements, RunningCommandCompletes, OperandsStayFixed: a running state of the invariant. -/
theorem witness_CoreInv : CoreInv running ∧ running.phase = .run ∧ (∃ t, step running = .next t ∧ t.phase = .run) := by
  refine ⟨⟨by decide, by decide, by decide, fun _ => ⟨rfl, rfl, by decide, .hash3x86_32, rfl,
    ready_accepts _, [⟨0x1000, .one⟩], by decide, rfl⟩, by decide, by decide, by decide, ?_⟩, rfl, _, rfl, rfl⟩
  intro a d h
  exact absurd h (by simp [running, ready, idleWith, State.reset])

/-- DisciplinesDifferOnlyByErrAlign, its two clauses. -/
theorem witness_Disciplines :
    (∃ t u, exec (.hash1 0#28) ready = .next t ∧ t.phase = .run ∧
      engineRun (t.plan.length + 1) t = .next u ∧ u.errcode = 0#4) ∧
    (∃ t u, exec (.hash1a 0#28) ready = .next t ∧ t.phase = .run ∧
      engineRun (t.plan.length + 1) t = .next u ∧ u.errcode = 0#4) ∧
    acceptError strict .hash1 0x1001 4 = some .align ∧ acceptError strict .hash1a 0x1001 4 = none ∧
    implements strict .hash1 = true ∧ implements strict .hash1a = true :=
  ⟨⟨_, _, rfl, rfl, rfl, rfl⟩, ⟨_, _, rfl, rfl, rfl, rfl⟩, by decide, by decide, rfl, rfl⟩

/-- DisciplinesDifferOnlyByErrAlign, the MURMUR2 pairs. -/
theorem witness_Disciplines2 :
    ∀ i ∈ [Instr.hash2 0#28, .hash2n 0#28, .hash2al 0#28], ∃ t u, exec i ready = .next t ∧ t.phase = .run ∧
      engineRun (t.plan.length + 1) t = .next u ∧ u.errcode = 0#4 := by
  simp only [List.forall_mem_cons, List.not_mem_nil, false_implies, implies_true, and_true]
  exact ⟨⟨_, _, rfl, rfl, rfl, rfl⟩, ⟨_, _, rfl, rfl, rfl, rfl⟩, _, _, rfl, rfl, rfl, rfl⟩

theorem witness_SeedHi :
    ∃ t u, exec (.hash2 0#28) ready = .next t ∧ engineRun 4 t = .next u ∧ u.done = true :=
  ⟨_, _, rfl, rfl, rfl⟩

theorem witness_EmptyInput :
    (idleWith strict 0x1001 0#32).phase = .idle ∧ (idleWith strict 0x1001 0#32).len = 0#32 ∧
    implements strict .hash64a = true := by decide

/-- Each clause at the largest tail of its range, each lane at the first count that reaches it, and the blocks
of a MURMUR64B input with the extra word. -/
theorem witness_Tails :
    3 < 4 ∧ 7 < 8 ∧ 15 < 16 ∧ 4 < 5 ∧ 8 < 9 ∧ 12 < 13 ∧ 4 ≤ (7#32).toNat % 8 ∧
    ∃ h, h = murmur64bBlocks abc ((7#32).toNat / 8) ((0#64).extractLsb' 0 32 ^^^ 7#32, (0#64).extractLsb' 32 32) :=
  ⟨by decide, by decide, by decide, by decide, by decide, by decide, by decide, _, rfl⟩

theorem witness_ShortInput : (4#32).toNat < 5 := by decide

/-- MalformedAccess: each way to be malformed. -/
theorem witness_Malformed :
    { ready with script := [.hostRead 0xFE 4] }.script = .hostRead (ready.params.base + 0xFE) 4 :: [] ∧
    { ready with script := [.hostWrite 0x18 2 5#32] }.script =
      .hostWrite (ready.params.base + 0x18) 2 5#32 :: [] ∧
    0xFE < 256 ∧ 0xFE % 4 ≠ 0 ∧ 2 ≠ 4 := by decide

theorem witness_HashProgram :
    { ready with script := hashProgram ready.params .hash1 0#64 0#32 0#64 }.script =
      hashProgram ready.params .hash1 0#64 0#32 0#64 ∧ ready.params.addrW = .w64 := by decide

theorem witness_Waits :
    { ready with script := [.waitDone] }.script = .waitDone :: [] ∧
    { ready with script := [.waitIrq] }.script = .waitIrq :: [] := by decide

theorem witness_HardReset :
    { ready with script := [.hardReset] }.script = .hardReset :: [] ∧ (0x2#32).getLsbD 1 = true := by decide

theorem witness_AgentWrite :
    memWf ready.mem = true ∧ { ready with script := [.memWrite (2 ^ 64 - 1) [1#8]] }.script =
      .memWrite (2 ^ 64 - 1) [1#8] :: [] ∧ (2 ^ 64 - 1) + [1#8].length ≤ spaceSize ready.params := by decide

/-- DropChangesOnlyByItsRules: a step that clears DROP and one that sets it. -/
theorem witness_Drop :
    (∃ t, step { ready with drop := true, script := [.hostWrite 0x10 4 0x100#32] } = .next t ∧ t.drop = false) ∧
    (∃ t, step { running with script := [.hostWrite 0x18 4 5#32] } = .next t ∧ t.drop = true) :=
  ⟨⟨_, rfl, by decide⟩, _, rfl, rfl⟩

/-- BusyAndDoneChangeOnlyByTheirRules, DigestChanges, IrqRises: a step that starts a command, one that ends
one, and one that enables the interrupt. -/
theorem witness_Rises :
    (∃ t, step { ready with script := [.hostWrite 0x14 4 0x9#32] } = .next t ∧ t.phase = .run) ∧
    (∃ t, step { readDone 0x9#4 abc 0#32 0#32 with ie := true } = .next t ∧ t.done = true ∧ irq t = true) ∧
    (∃ t, step { ready with done := true, script := [.hostWrite 0x0C 4 1#32] } = .next t ∧ irq t = true) :=
  ⟨⟨_, rfl, rfl⟩, ⟨_, rfl, rfl, rfl⟩, _, rfl, by decide⟩

/-- BusyAndDoneChangeOnlyByTheirRules: a step that ends the running of a command, and one that clears DONE. -/
theorem witness_Falls :
    (∃ t, step { running with script := [.hostWrite 0x0C 4 2#32] } = .next t ∧ t.phase = .idle) ∧
    (∃ t, step { ready with done := true, script := [.hostWrite 0x10 4 2#32] } = .next t ∧ t.done = false) :=
  ⟨⟨_, rfl, by decide⟩, _, rfl, by decide⟩

/-- HostReadReturnsTheRegister, ReservedOffsets, OperandWrites: SRC_HI's offset at each address width, and
the last reserved offset. -/
theorem witness_SrcHi :
    (Reads { ready with script := [.hostRead 0x24 4] } 0x24 [] ∧ ready.params.addrW = .w64) ∧
    (Writes { ready with params := { Params.default with addrW := .w32 }, script := [.hostWrite 0x24 4 1#32] }
      0x24 1#32 [] ∧ ({ Params.default with addrW := .w32 } : Params).addrW = .w32) ∧
    0xFC % 4 = 0 ∧ 0x40 ≤ 0xFC := ⟨⟨rfl, rfl⟩, ⟨rfl, rfl⟩, by decide, by decide⟩

/-- The opaque free value is never needed where there are no side effects. -/
theorem test_plain_read : portRead .default [(5, 7#8)] 0 ⟨4, .four⟩ = [0#8, 7#8, 0#8, 0#8] := by decide

end Sys2Proof.Tests
end

section
/-! The invariant (O57): what keeps `CoreInv`, one lemma per kind of change, then every effect of a step. -/

namespace Sys2Proof.Machine

theorem errCode_code_le_six (e : ErrCode) : e.code.toNat ≤ 6 := by cases e <;> decide

/-- The invariant does not see the bus response, and no new agent write stands in the script. -/
theorem CoreInv.advance {s : State} (h : CoreInv s) {script : List Event} (resp : Response)
    (hs : ∀ a data, Event.memWrite a data ∈ script → Event.memWrite a data ∈ s.script) :
    CoreInv { s with script := script, resp := resp } where
  memCanonical := h.memCanonical
  memInSpace := h.memInSpace
  idleEmpty := h.idleEmpty
  running hp :=
    have ⟨hd, he, hz, hprog⟩ := h.running hp
    ⟨hd, he, hz, hprog⟩
  errcodeLegal := h.errcodeLegal
  errorDigZero := h.errorDigZero
  srcHiReserved := h.srcHiReserved
  scriptInSpace a data hm := h.scriptInSpace a data (hs a data hm)

/-- IE and DROP are free, and DONE is where no command runs. -/
theorem CoreInv.setFlags {s : State} (h : CoreInv s) (ie done drop : Bool)
    (hd : s.phase = .run → done = false) :
    CoreInv { s with ie := ie, done := done, drop := drop } where
  memCanonical := h.memCanonical
  memInSpace := h.memInSpace
  idleEmpty := h.idleEmpty
  running hp :=
    have ⟨_, he, hz, hprog⟩ := h.running hp
    ⟨hd hp, he, hz, hprog⟩
  errcodeLegal := h.errcodeLegal
  errorDigZero := h.errorDigZero
  srcHiReserved := h.srcHiReserved
  scriptInSpace := h.scriptInSpace

/-- In IDLE the operand registers are free, but for a reserved SRC_HI. -/
theorem CoreInv.setOperands {s : State} (h : CoreInv s) (hp : s.phase = .idle)
    (len srcLo srcHi seedLo seedHi : Word) (hw : s.params.addrW = .w32 → srcHi = 0#32) :
    CoreInv { s with
      len := len, srcLo := srcLo, srcHi := srcHi, seedLo := seedLo, seedHi := seedHi } where
  memCanonical := h.memCanonical
  memInSpace := h.memInSpace
  idleEmpty := h.idleEmpty
  running hr := absurd (hp.symm.trans hr) (by decide)
  errcodeLegal := h.errcodeLegal
  errorDigZero := h.errorDigZero
  srcHiReserved := hw
  scriptInSpace := h.scriptInSpace

/-- A step that leaves the engine idle and empty keeps the invariant if its ERRCODE is legal, goes with a
digest of 0 where it is an error, and a reserved SRC_HI stays 0. -/
theorem CoreInv.ended {s t : State} (h : CoreInv s) (hphase : t.phase = .idle) (hplan : t.plan = [])
    (hbytes : t.bytes = []) (hcode : t.errcode.toNat ≤ 6) (hdig : t.errcode ≠ 0#4 → DigZero t)
    (hmem : t.mem = s.mem) (hparams : t.params = s.params) (hscript : t.script = s.script)
    (hsrc : s.params.addrW = .w32 → t.srcHi = 0#32) : CoreInv t where
  memCanonical := hmem ▸ h.memCanonical
  memInSpace := hmem ▸ hparams ▸ h.memInSpace
  idleEmpty _ := ⟨hplan, hbytes⟩
  running hr := absurd (hphase.symm.trans hr) (by decide)
  errcodeLegal := hcode
  errorDigZero := hdig
  srcHiReserved hw := hsrc (hparams ▸ hw)
  scriptInSpace := hparams ▸ hscript ▸ h.scriptInSpace

/-- Completion with error keeps the invariant where the digest is 0 (60_exceptions.md R292). -/
theorem CoreInv.raised {s : State} (h : CoreInv s) (e : ErrCode) (hz : DigZero s) : CoreInv (raise e s) :=
  h.ended rfl rfl rfl (errCode_code_le_six e) (fun _ => hz) rfl rfl rfl h.srcHiReserved

/-- An acceptance that an error ends (40_operation.md R143). -/
theorem CoreInv.failed {s : State} (h : CoreInv s) (o : BitVec 4) (e : ErrCode) :
    CoreInv (raise e (acceptBase o s)) :=
  h.ended rfl rfl rfl (errCode_code_le_six e) (fun _ => ⟨rfl, rfl, rfl, rfl⟩) rfl rfl rfl h.srcHiReserved

/-- An acceptance that starts a command with its whole plan before it (40_operation.md R144). -/
theorem CoreInv.started {s : State} (h : CoreInv s) (v : Variant)
    (ha : Accepts s.params v s.src s.inputLen) : CoreInv (accepted v s) where
  memCanonical := h.memCanonical
  memInSpace := h.memInSpace
  idleEmpty hp := absurd hp (by simp [accepted])
  running _ := ⟨rfl, rfl, ⟨rfl, rfl, rfl, rfl⟩, v, variantOfOpc_opc v, ha, [], rfl, rfl⟩
  errcodeLegal := by simp [accepted]
  errorDigZero he := absurd rfl he
  srcHiReserved := h.srcHiReserved
  scriptInSpace := h.scriptInSpace

/-- A read moves the head of the plan to the reads whose bytes are held (40_operation.md R150). -/
theorem RunOk.afterRead {s : State} (h : RunOk s) {r : ReadReq} {rest : List ReadReq}
    (hl : s.plan = r :: rest) : RunOk (afterRead r rest s) := by
  obtain ⟨hd, he, hz, v, hv, ha, past, hplan, hlen⟩ := h
  have hbytes : (Machine.afterRead r rest s).bytes.length = readLen (past ++ [r]) := by
    simp [Machine.afterRead, hlen]
  have hcut : commandPlan v s = (past ++ [r]) ++ rest := by rw [hplan, hl]; simp
  exact ⟨hd, he, hz, v, hv, ha, past ++ [r], hcut, hbytes⟩

theorem CoreInv.read {s : State} (h : CoreInv s) (hp : s.phase = .run) {r : ReadReq}
    {rest : List ReadReq} (hl : s.plan = r :: rest) : CoreInv (afterRead r rest s) where
  memCanonical := h.memCanonical
  memInSpace := h.memInSpace
  idleEmpty hi := absurd (hp.symm.trans hi) (by decide)
  running _ := (h.running hp).afterRead hl
  errcodeLegal := h.errcodeLegal
  errorDigZero := h.errorDigZero
  srcHiReserved := h.srcHiReserved
  scriptInSpace := h.scriptInSpace

/-- Another agent's write inside the read space (20_memory.md R92). -/
theorem CoreInv.agentWrote {s : State} (h : CoreInv s) {a : Nat} {data : List Byte}
    (hin : a + data.length ≤ spaceSize s.params) :
    CoreInv { s with mem := memPutList s.mem a data } where
  memCanonical := memWf_memPutList a data h.memCanonical
  memInSpace c hc := by
    rcases mem_of_memPutList hc with hold | ⟨_, hnew⟩
    · exact h.memInSpace c hold
    · exact hnew.trans_le hin
  idleEmpty := h.idleEmpty
  running hp :=
    have ⟨hd, he, hz, hprog⟩ := h.running hp
    ⟨hd, he, hz, hprog⟩
  errcodeLegal := h.errcodeLegal
  errorDigZero := h.errorDigZero
  srcHiReserved := h.srcHiReserved
  scriptInSpace := h.scriptInSpace

/-- Whatever a step does to the core keeps the invariant. -/
theorem Effect.keeps_coreInv {s t : State} (he : Effect s t) (h : CoreInv s) : CoreInv t := by
  cases he with
  | same => exact h
  | dropped hp => exact h.setFlags s.ie s.done true fun hr => (h.running hr).notDone
  | setLen hp v => exact h.setOperands hp v _ _ _ _ h.srcHiReserved
  | setSrcLo hp v => exact h.setOperands hp _ v _ _ _ h.srcHiReserved
  | setSrcHi hp hw v => exact h.setOperands hp _ _ v _ _ fun hw' => absurd (hw.symm.trans hw') (by decide)
  | setSeedLo hp v => exact h.setOperands hp _ _ _ v _ h.srcHiReserved
  | setSeedHi hp v => exact h.setOperands hp _ _ _ _ v h.srcHiReserved
  | status v => exact h.setFlags s.ie _ _ fun hr => by simp [(h.running hr).notDone]
  | enable b => exact h.setFlags b s.done s.drop fun hr => (h.running hr).notDone
  | reset => exact h.ended rfl rfl rfl (by simp) (fun hne => absurd rfl hne) rfl rfl rfl fun _ => rfl
  | failed hp o e => exact h.failed o e
  | started hp v ha => exact h.started v ha
  | busError hp => exact h.raised .bus (h.running hp).digZero
  | read hp r rest hl => exact h.read hp hl
  | completed hp hl v hv =>
    exact h.ended rfl rfl rfl (by simp) (fun hne => absurd rfl hne) (by simp) (by simp) (by simp)
      (by simpa using h.srcHiReserved)
  | agent a data hin => exact h.agentWrote hin

/-- Settles O57: a step moves the script and the response on, and then its effect keeps the invariant. -/
theorem everyStepKeepsTheInvariant : Obligations.EveryStepKeepsTheInvariant := by
  intro s t h hstep
  obtain ⟨script, resp, hscript, heffect⟩ := step_cases hstep
  exact heffect.keeps_coreInv (h.advance resp hscript)

end Sys2Proof.Machine
end

section
/-! The register window: what a step does when the next event is a host access, read off the register map
(10_state.md R31 to R35). -/

namespace Sys2Proof.Machine

/-! Where an access lands -/

theorem windowOffset_base_add (p : Params) {o : Nat} (ho : o < 256) :
    windowOffset p (p.base + o) = some o := by
  simp [windowOffset, ho]

theorem regAt_offset (r : Reg) : regAt r.offset = some r := by cases r <;> rfl

theorem offset_of_regAt {o : Nat} {r : Reg} (h : regAt o = some r) : r.offset = o := by
  simpa using List.find?_some h

theorem Reg.offset_lt (r : Reg) : r.offset < 256 := by cases r <;> decide

theorem accessOk_offset (r : Reg) : accessOk r.offset 4 = true := by cases r <;> rfl

/-- The reserved offsets that no parameter makes so (10_state.md R33, R35). -/
theorem regAt_reserved {o : Nat} (h : o = 0x1C ∨ 0x40 ≤ o) : regAt o = none := by
  refine List.find?_eq_none.2 fun r _ => ?_
  have : r.offset ≠ 0x1C ∧ r.offset < 0x40 := by cases r <;> decide
  simp only [beq_iff_eq]
  omega

/-- What a host access sees of the state does not depend on the script. -/
theorem readReg_script (r : Reg) (s : State) (script : List Event) :
    readReg r { s with script := script } = readReg r s := by cases r <;> rfl

/-! The step of a host access -/

theorem step_of_script {s : State} {e : Event} {rest : List Event} (h : s.script = e :: rest) :
    step s = runEvent e { s with script := rest } := by
  simp [step, nextStep, h]

/-- A 32-bit read at a register's offset answers its value and changes nothing else (10_state.md R35). -/
theorem step_of_reads {s : State} {r : Reg} {rest : List Event} (h : Reads s r.offset rest) :
    step s = .next { s with script := rest, resp := .data (readReg r s) } := by
  simp only [step_of_script h, runEvent, hostRead, windowOffset_base_add s.params r.offset_lt,
    accessOk_offset, regAt_offset, readReg_script, if_true]

/-- A 32-bit write at a register's offset is `writeReg`, with a normal response on the bus. -/
theorem step_of_writes {s : State} {r : Reg} {v : Word} {rest : List Event}
    (h : Writes s r.offset v rest) :
    step s = writeReg r v { s with script := rest, resp := .written } := by
  simp only [step_of_script h, runEvent, hostWrite, windowOffset_base_add s.params r.offset_lt,
    accessOk_offset, regAt_offset, if_true]

/-- A read where no register is answers 0 (10_state.md R33). -/
theorem step_of_reads_reserved {s : State} {o : Nat} {rest : List Event} (h : Reads s o rest)
    (ho : o < 256) (hal : o % 4 = 0) (hr : regAt o = none) :
    step s = .next { s with script := rest, resp := .data 0#32 } := by
  have hok : accessOk o 4 = true := by simp [accessOk, hal]
  simp only [step_of_script h, runEvent, hostRead, windowOffset_base_add s.params ho, hok, hr, if_true]

/-- A write where no register is gets a normal response and changes nothing (10_state.md R33). -/
theorem step_of_writes_reserved {s : State} {o : Nat} {v : Word} {rest : List Event}
    (h : Writes s o v rest) (ho : o < 256) (hal : o % 4 = 0) (hr : regAt o = none) :
    step s = .next { s with script := rest, resp := .written } := by
  have hok : accessOk o 4 = true := by simp [accessOk, hal]
  simp only [step_of_script h, runEvent, hostWrite, windowOffset_base_add s.params ho, hok, hr, if_true]

/-! Register writes while a command runs and while none does -/

theorem guardedWrite_run {s : State} (t : State) (h : s.phase = .run) : guardedWrite t s = dropWrite s :=
  if_pos (busy_iff.2 h)

theorem guardedWrite_idle {s : State} (t : State) (h : s.phase = .idle) : guardedWrite t s = t :=
  if_neg (by simp [not_busy_iff.2 h])

/-- A command written while BUSY = 1 is dropped, whichever of the sixteen (10_state.md R36). -/
theorem exec_run (i : Instr) {s : State} (h : s.phase = .run) : exec i s = .next (dropWrite s) := by
  obtain ⟨t, ht⟩ := exec_total i s
  rcases exec_cases ht with ⟨_, rfl⟩ | ⟨hi, _⟩ | ⟨hi, _⟩
  · exact ht
  all_goals exact absurd (hi.symm.trans h) (by decide)

theorem writeCtrl_reset {v : Word} (s : State) (h : v.getLsbD 1 = true) : writeCtrl v s = resetCore s :=
  if_pos h

theorem writeCtrl_enable {v : Word} (s : State) (h : v.getLsbD 1 = false) :
    writeCtrl v s = { s with ie := v.getLsbD 0 } :=
  if_neg (by rw [h]; decide)

/-- Settles O5: the write to CMD of R50 as a step; `withFetchWord` places such a write. -/
theorem stepRunsTheDecodedCommand : Obligations.StepRunsTheDecodedCommand := by
  refine ⟨fun s w rest h => step_of_writes (r := .cmd) h, fun s nbits w i hi => ?_⟩
  have hw : Writes (s.withFetchWord nbits w) Reg.cmd.offset (BitVec.ofNat 32 (w % 2 ^ nbits)) s.script := rfl
  have hdec : decodeWord (BitVec.ofNat 32 (w % 2 ^ nbits)) = i := by
    unfold decodeTableWord at hi
    split_ifs at hi
    exact Option.some.inj hi
  rw [step_of_writes hw, ← hdec]
  rfl

/-- Settles O10. -/
theorem commandWhileBusyOnlySetsDrop : Obligations.CommandWhileBusyOnlySetsDrop :=
  fun i _ h => exec_run i h

/-- Settles O12: each outcome of `exec_cases` has the frame. -/
theorem commandFrame : Obligations.CommandFrame := by
  intro i s
  obtain ⟨t, ht⟩ := exec_total i s
  refine ⟨t, ht, ?_⟩
  rcases exec_cases ht with ⟨hp, rfl⟩ | ⟨hp, e, rfl⟩ | ⟨hp, v, hv, _, rfl⟩
  · simp [hp]
  · simp [DigZero]
  · simp [accepted, opc_of_variantOfOpc hv, DigZero]

/-! Reads -/

/-- A flag word has the flag in bit 0 and nothing above. -/
@[simp] theorem getLsbD_flagWord (b : Bool) (i : Nat) :
    (flagWord b).getLsbD i = (b && decide (i = 0)) := by
  cases b <;> simp [flagWord, BitVec.getLsbD_one]

/-- Settles O35, register by register of the map. -/
theorem hostReadReturnsTheRegister : Obligations.HostReadReturnsTheRegister := by
  refine ⟨fun s o x rest h hox => ?_, fun s rest h => ?_, fun s rest h => ?_⟩
  · rcases hox with hmem | ⟨rfl, hw, rfl⟩
    · simp only [List.mem_cons, List.not_mem_nil, or_false, Prod.mk.injEq] at hmem
      rcases hmem with ⟨rfl, rfl⟩ | ⟨rfl, rfl⟩ | ⟨rfl, rfl⟩ | ⟨rfl, rfl⟩ | ⟨rfl, rfl⟩ | ⟨rfl, rfl⟩ |
        ⟨rfl, rfl⟩ | ⟨rfl, rfl⟩ | ⟨rfl, rfl⟩ | ⟨rfl, rfl⟩
      · exact step_of_reads (r := .id) h
      · exact step_of_reads (r := .version) h
      · exact step_of_reads (r := .len) h
      · exact step_of_reads (r := .srcLo) h
      · exact step_of_reads (r := .seedLo) h
      · exact step_of_reads (r := .seedHi) h
      · exact step_of_reads (r := .dig0) h
      · exact step_of_reads (r := .dig1) h
      · exact step_of_reads (r := .dig2) h
      · exact step_of_reads (r := .dig3) h
    · rw [step_of_reads (r := .srcHi) h]
      simp only [readReg, hw]
  · refine ⟨_, step_of_reads (r := .ctrl) h, ?_, ?_⟩
    · simp only [readReg, ctrlWord, getLsbD_flagWord, decide_true, Bool.and_true]
    · ext k hk
      simp [readReg, ctrlWord]
  · refine ⟨_, step_of_reads (r := .cmd) h, ?_, ?_⟩
    · ext k hk
      have hk32 : k < 32 := by omega
      simp [readReg, cmdWord, hk32, BitVec.getLsbD_eq_getElem hk]
    · ext k hk
      simp [readReg, cmdWord]

end Sys2Proof.Machine
end

section
/-! What the host reads of STATUS and CAPS, and what its writes do to the register window (O36 to O43). -/

namespace Sys2Proof.Machine

/-- A flag put at bit `n` of a register word is that bit and no other. -/
theorem getLsbD_flagWord_shiftLeft (b : Bool) {n : Nat} (hn : n < 32) (i : Nat) :
    (flagWord b <<< n).getLsbD i = (b && decide (i = n)) := by
  have hbit : (i < 32 ∧ ¬ i < n) ∧ i - n = 0 ↔ i = n := by omega
  rw [BitVec.getLsbD_shiftLeft, getLsbD_flagWord, ← decide_not, ← Bool.decide_and, Bool.and_left_comm,
    ← Bool.decide_and, decide_eq_decide.2 hbit]

/-- A field put at bit `n` of a register word it fits in. -/
theorem getLsbD_field_shiftLeft {w : Nat} (x : BitVec w) {n : Nat} (hn : w + n ≤ 32) (i : Nat) :
    (x.setWidth 32 <<< n).getLsbD i = (decide (n ≤ i) && x.getLsbD (i - n)) := by
  by_cases hi : i < w + n
  · have h32 : i < 32 ∧ i - n < 32 := by omega
    simp [h32, ← decide_not]
  · simp [BitVec.getLsbD_of_ge x (i - n) (by omega)]

/-- STATUS, bit by bit (10_state.md R45 to R49). -/
theorem getLsbD_statusWord (s : State) (i : Nat) :
    (statusWord s).getLsbD i =
      (s.busy && decide (i = 0) || s.done && decide (i = 1) || s.err && decide (i = 2) ||
        decide (4 ≤ i) && s.errcode.getLsbD (i - 4) || s.drop && decide (i = 8)) := by
  simp only [statusWord, BitVec.getLsbD_or, getLsbD_flagWord,
    getLsbD_flagWord_shiftLeft _ (show 1 < 32 by decide), getLsbD_flagWord_shiftLeft _ (show 2 < 32 by decide),
    getLsbD_flagWord_shiftLeft _ (show 8 < 32 by decide),
    getLsbD_field_shiftLeft s.errcode (show 4 + 4 ≤ 32 by decide)]

/-- CAPS, bit by bit (10_state.md R42). -/
theorem getLsbD_capsWord (p : Params) (i : Nat) :
    (capsWord p).getLsbD i =
      (decide (1 ≤ i) && p.variants.getLsbD (i - 1) || p.misalignedRd && decide (i = 16) ||
        (p.addrW == .w64) && decide (i = 17)) := by
  simp only [capsWord, BitVec.getLsbD_or, getLsbD_flagWord_shiftLeft _ (show 16 < 32 by decide),
    getLsbD_flagWord_shiftLeft _ (show 17 < 32 by decide),
    getLsbD_field_shiftLeft p.variants (show 11 + 1 ≤ 32 by decide)]

theorem busy_eq_decide (s : State) : s.busy = decide (s.phase = .run) := by
  rw [Bool.eq_iff_iff, busy_iff, decide_eq_true_iff]

theorem err_eq_decide (s : State) : s.err = decide (s.errcode ≠ 0#4) := by
  rw [Bool.eq_iff_iff]
  simp [State.err]

/-- Settles O36: each clause is `getLsbD_statusWord` at the clause's bits. -/
theorem statusReadShowsItsFields : Obligations.StatusReadShowsItsFields := by
  intro s rest h
  refine ⟨_, step_of_reads (r := .status) h, ?_⟩
  rw [← busy_eq_decide, ← err_eq_decide]
  simp only [readReg]
  refine ⟨?busy, ?done, ?err, ?zero, ?code, ?drop, ?above⟩
  case code =>
    ext k hk
    have hother : 4 + k ≠ 1 ∧ 4 + k ≠ 2 ∧ 4 + k ≠ 8 := by omega
    rw [BitVec.getElem_extractLsb', getLsbD_statusWord]
    simp [hk, hother]
  case above =>
    ext k hk
    have hother : 9 + k ≠ 1 ∧ 9 + k ≠ 2 ∧ 9 + k ≠ 8 := by omega
    rw [BitVec.getElem_extractLsb', getLsbD_statusWord, BitVec.getLsbD_of_ge s.errcode _ (by omega)]
    simp [hother]
  all_goals
    rw [getLsbD_statusWord]
    simp

/-- Settles O37: each clause is `getLsbD_capsWord` at the clause's bits. -/
theorem capsReadShowsTheParameters : Obligations.CapsReadShowsTheParameters := by
  refine ⟨fun s rest h => ⟨_, step_of_reads (r := .caps) h, ?_⟩, by decide⟩
  simp only [readReg]
  refine ⟨?zero, fun v => ?variant, ?between, ?misaligned, ?addr64, ?above⟩
  case variant =>
    have hopc : 1 ≤ v.opc.toNat ∧ v.opc.toNat ≤ 11 := by cases v <;> decide
    have hother : v.opc.toNat ≠ 16 ∧ v.opc.toNat ≠ 17 := by omega
    rw [getLsbD_capsWord]
    simp [implements, hopc, hother]
  case between =>
    ext k hk
    have hother : 12 + k ≠ 16 ∧ 12 + k ≠ 17 := by omega
    rw [BitVec.getElem_extractLsb', getLsbD_capsWord, BitVec.getLsbD_of_ge s.params.variants _ (by omega)]
    simp [hother]
  case above =>
    ext k hk
    have hother : 18 + k ≠ 16 ∧ 18 + k ≠ 17 := by omega
    rw [BitVec.getElem_extractLsb', getLsbD_capsWord, BitVec.getLsbD_of_ge s.params.variants _ (by omega)]
    simp [hother]
  all_goals
    rw [getLsbD_capsWord]
    simp [beq_eq_decide]

/-- Settles O38. -/
theorem reservedOffsetsReadZeroAndIgnoreWrites : Obligations.ReservedOffsetsReadZeroAndIgnoreWrites := by
  intro s o v rest ho
  have hreserved : o = 0x1C ∨ (o % 4 = 0 ∧ 0x40 ≤ o ∧ o ≤ 0xFC) →
      o < 256 ∧ o % 4 = 0 ∧ regAt o = none := fun hr =>
    ⟨by omega, by omega, regAt_reserved (by omega)⟩
  rcases ho with ho | ho | ⟨rfl, hw⟩
  · obtain ⟨hlt, hal, hr⟩ := hreserved (.inl ho)
    exact ⟨fun h => step_of_reads_reserved h hlt hal hr, fun h => step_of_writes_reserved h hlt hal hr⟩
  · obtain ⟨hlt, hal, hr⟩ := hreserved (.inr ho)
    exact ⟨fun h => step_of_reads_reserved h hlt hal hr, fun h => step_of_writes_reserved h hlt hal hr⟩
  · refine ⟨fun h => ?_, fun h => ?_⟩
    · rw [step_of_reads (r := .srcHi) h]
      simp only [readReg, hw]
    · rw [step_of_writes (r := .srcHi) h]
      simp only [writeReg, hw]

/-- Settles O39. -/
theorem writesToReadOnlyRegistersAreIgnored : Obligations.WritesToReadOnlyRegistersAreIgnored := by
  intro s o v rest ho h
  simp only [List.mem_cons, List.not_mem_nil, or_false] at ho
  rcases ho with rfl | rfl | rfl | rfl | rfl | rfl | rfl
  · exact step_of_writes (r := .id) h
  · exact step_of_writes (r := .version) h
  · exact step_of_writes (r := .caps) h
  · exact step_of_writes (r := .dig0) h
  · exact step_of_writes (r := .dig1) h
  · exact step_of_writes (r := .dig2) h
  · exact step_of_writes (r := .dig3) h

/-- Settles O40. -/
theorem malformedAccessChangesNothing : Obligations.MalformedAccessChangesNothing := by
  intro s o size v rest ho hbad h
  have hok : accessOk o size = false := by
    rcases hbad with hb | hb <;> simp [accessOk, hb]
  rcases h with h | h
  · simp [step_of_script h, runEvent, hostRead, windowOffset_base_add s.params ho, hok]
  · simp [step_of_script h, runEvent, hostWrite, windowOffset_base_add s.params ho, hok]

/-- A write to CTRL without SRST sets IE, in every state (10_state.md R43). -/
theorem step_of_enable {s : State} {v : Word} {rest : List Event} (h : Writes s 0x0C v rest)
    (hv : v.getLsbD 1 = false) :
    step s = .next { s with script := rest, resp := .written, ie := v.getLsbD 0 } := by
  rw [step_of_writes (r := .ctrl) h]
  exact congrArg Host.Outcome.next (writeCtrl_enable _ hv)

/-- A write to STATUS clears DONE and DROP by their bits, in every state (10_state.md R46, R49). -/
theorem step_of_writeStatus {s : State} {v : Word} {rest : List Event} (h : Writes s 0x10 v rest) :
    step s = .next { s with
      script := rest
      resp := .written
      done := s.done && !v.getLsbD 1
      drop := s.drop && !v.getLsbD 8 } :=
  step_of_writes (r := .status) h

/-- Settles O41. -/
theorem operandWritesWhileBusyOnlySetDrop : Obligations.OperandWritesWhileBusyOnlySetDrop := by
  intro s v rest hp
  have dropped (t : State) : guardedWrite t { s with script := rest, resp := .written } =
      { s with script := rest, resp := .written, drop := true } := guardedWrite_run t hp
  refine ⟨fun o ho h => ?_, fun hw h => ?_, step_of_enable, step_of_writeStatus⟩
  · simp only [List.mem_cons, List.not_mem_nil, or_false] at ho
    rcases ho with rfl | rfl | rfl | rfl | rfl
    · rw [step_of_writes (r := .cmd) h]
      exact exec_run _ hp
    · rw [step_of_writes (r := .len) h]
      simp only [writeReg, dropped]
    · rw [step_of_writes (r := .srcLo) h]
      simp only [writeReg, dropped]
    · rw [step_of_writes (r := .seedLo) h]
      simp only [writeReg, dropped]
    · rw [step_of_writes (r := .seedHi) h]
      simp only [writeReg, dropped]
  · rw [step_of_writes (r := .srcHi) h]
    simp only [writeReg, hw, dropped]

/-- Settles O42. -/
theorem operandWritesWhileIdleSetTheRegister : Obligations.OperandWritesWhileIdleSetTheRegister := by
  intro s v rest hp
  have taken (t : State) : guardedWrite t { s with script := rest, resp := .written } = t :=
    guardedWrite_idle t hp
  refine ⟨fun h => ?_, fun h => ?_, fun hw h => ?_, fun h => ?_, fun h => ?_⟩
  · rw [step_of_writes (r := .len) h]
    simp only [writeReg, taken]
  · rw [step_of_writes (r := .srcLo) h]
    simp only [writeReg, taken]
  · rw [step_of_writes (r := .srcHi) h]
    simp only [writeReg, hw, taken]
  · rw [step_of_writes (r := .seedLo) h]
    simp only [writeReg, taken]
  · rw [step_of_writes (r := .seedHi) h]
    simp only [writeReg, taken]

/-- Settles O43: the four STATUS clauses are the one equation at the four values of its two bits. -/
theorem controlAndStatusWrites : Obligations.ControlAndStatusWrites := by
  intro s v rest
  refine ⟨step_of_enable, fun h h1 h8 => ?_, fun h h1 h8 => ?_, fun h h1 h8 => ?_, fun h h1 h8 => ?_⟩
  all_goals rw [step_of_writeStatus h, h1, h8]
  all_goals simp only [Bool.not_true, Bool.not_false, Bool.and_true, Bool.and_false]

end Sys2Proof.Machine
end

section
/-! What one step does, with the event that makes it do so: `step_cases` with the host write named. -/

namespace Sys2Proof.Machine

theorem windowOffset_some {p : Params} {addr o : Nat} (h : windowOffset p addr = some o) :
    addr = p.base + o := by
  unfold windowOffset at h
  split_ifs at h with hin
  simp only [Bool.and_eq_true, decide_eq_true_eq] at hin
  have := Option.some.inj h
  omega

theorem accessOk_size {o size : Nat} (h : accessOk o size = true) : size = 4 := by
  simp only [accessOk, Bool.and_eq_true, beq_iff_eq] at h
  exact h.1

/-- A host read changes the bus response only. -/
theorem hostRead_resp {addr size : Nat} {s t : State} (h : hostRead addr size s = .next t) :
    ∃ x, t = { s with resp := x } := by
  unfold hostRead at h
  split at h
  · cases h; exact ⟨_, rfl⟩
  · split_ifs at h
    · split at h <;> (cases h; exact ⟨_, rfl⟩)
    · cases h; exact ⟨_, rfl⟩

/-- A host write changes the bus response only, or it is a 32-bit write at a register's offset. -/
theorem hostWrite_cases {addr size : Nat} {v : Word} {s t : State}
    (h : hostWrite addr size v s = .next t) :
    (∃ x, t = { s with resp := x }) ∨
    ∃ r : Reg, addr = s.params.base + r.offset ∧ size = 4 ∧
      writeReg r v { s with resp := .written } = .next t := by
  unfold hostWrite at h
  split at h
  · cases h; exact .inl ⟨_, rfl⟩
  · rename_i o ho
    split_ifs at h with hok
    · split at h
      · rename_i r hr
        exact .inr ⟨r, offset_of_regAt hr ▸ windowOffset_some ho, accessOk_size hok, h⟩
      · cases h; exact .inl ⟨_, rfl⟩
    · cases h; exact .inl ⟨_, rfl⟩

/-- The registers whose writes are dropped while a command runs (10_state.md R36); SRC_HI is one where
P_ADDR_W = 64. -/
def Guarded (p : Params) (r : Reg) : Prop :=
  r ∈ [.cmd, .len, .srcLo, .srcHi, .seedLo, .seedHi] ∧ (r = .srcHi → p.addrW = .w64)

theorem guarded_of_ne_srcHi {p : Params} {r : Reg}
    (h : r ∈ [.cmd, .len, .srcLo, .srcHi, .seedLo, .seedHi]) (hne : r ≠ .srcHi) : Guarded p r :=
  ⟨h, fun he => absurd he hne⟩

/-- Everything a register write can do, with the register that has it done. -/
inductive Written (r : Reg) (v : Word) (s : State) : State → Prop
  | ignored : Written r v s s
  | dropped (hp : s.phase = .run) (hg : Guarded s.params r) : Written r v s (dropWrite s)
  | operands (hp : s.phase = .idle) (len srcLo srcHi seedLo seedHi : Word) :
      Written r v s { s with
        len := len, srcLo := srcLo, srcHi := srcHi, seedLo := seedLo, seedHi := seedHi }
  | enable (hr : r = .ctrl) (hv : v.getLsbD 1 = false) : Written r v s { s with ie := v.getLsbD 0 }
  | reset (hr : r = .ctrl) (hv : v.getLsbD 1 = true) : Written r v s (resetCore s)
  | status (hr : r = .status) : Written r v s (writeStatus v s)
  | failed (hr : r = .cmd) (hp : s.phase = .idle) (e : ErrCode) :
      Written r v s (raise e (acceptBase (decodeWord v).opc s))
  | started (hr : r = .cmd) (hp : s.phase = .idle) (m : Variant)
      (hm : variantOfOpc (decodeWord v).opc = some m) (ha : Accepts s.params m s.src s.inputLen) :
      Written r v s (accepted m s)

theorem idle_or_run (s : State) : s.phase = .idle ∨ s.phase = .run := by cases s.phase <;> simp

/-- A guarded operand write is dropped while a command runs, and otherwise sets operands. -/
theorem written_of_guardedWrite {r : Reg} {v : Word} {s : State} (hg : Guarded s.params r)
    (len srcLo srcHi seedLo seedHi : Word) :
    Written r v s (guardedWrite { s with
      len := len, srcLo := srcLo, srcHi := srcHi, seedLo := seedLo, seedHi := seedHi } s) := by
  rcases idle_or_run s with hp | hp
  · rw [guardedWrite_idle _ hp]
    exact .operands hp ..
  · rw [guardedWrite_run _ hp]
    exact .dropped hp hg

theorem written_of_writeReg {r : Reg} {v : Word} {s t : State} (h : writeReg r v s = .next t) :
    Written r v s t := by
  cases r <;> simp only [writeReg] at h
  case cmd =>
    rcases exec_cases h with ⟨hp, rfl⟩ | ⟨hp, e, rfl⟩ | ⟨hp, m, hm, ha, rfl⟩
    · exact .dropped hp (guarded_of_ne_srcHi (by decide) (by decide))
    · exact .failed rfl hp e
    · exact .started rfl hp m hm ha
  case ctrl =>
    cases h
    cases hv : v.getLsbD 1 with
    | false => exact writeCtrl_enable s hv ▸ .enable rfl hv
    | true => exact writeCtrl_reset s hv ▸ .reset rfl hv
  case status => cases h; exact .status rfl
  case srcHi =>
    split at h
    · rename_i hw; cases h; exact written_of_guardedWrite ⟨by decide, fun _ => hw⟩ ..
    · cases h; exact .ignored
  case len | srcLo | seedLo | seedHi =>
    cases h; exact written_of_guardedWrite (guarded_of_ne_srcHi (by decide) (by decide)) ..
  all_goals cases h; exact .ignored

/-- Everything a step can do, by the agent that moves; where the script and the bus response end, and what an
agent writes to memory, is left free (`step_cases` has the agent write). -/
inductive Moved (s : State) : State → Prop
  | quiet (script : List Event) (resp : Response) (mem : List Host.Cell) :
      Moved s { s with script := script, resp := resp, mem := mem }
  | write (r : Reg) (v : Word) (rest : List Event) (hw : Writes s r.offset v rest) {t : State}
      (h : Written r v { s with script := rest, resp := .written } t) : Moved s t
  | hardReset (rest : List Event) (hs : s.script = .hardReset :: rest) :
      Moved s (resetCore { s with script := rest })
  | engine (script : List Event) {t : State} (h : engineStep { s with script := script } = .next t) :
      Moved s t

theorem moved_of_step {s t : State} (h : step s = .next t) : Moved s t := by
  cases hs : s.script with
  | nil =>
    have hstep : step s = engineStep s := by simp [step, nextStep, hs]
    exact .engine s.script (hstep ▸ h)
  | cons e rest =>
    rw [step_of_script hs] at h
    cases e <;> simp only [runEvent] at h
    case hostRead addr size =>
      obtain ⟨x, rfl⟩ := hostRead_resp h
      exact .quiet rest x s.mem
    case hostWrite addr size v =>
      rcases hostWrite_cases h with ⟨x, rfl⟩ | ⟨r, rfl, rfl, hw⟩
      · exact .quiet rest x s.mem
      · exact .write r v rest hs (written_of_writeReg hw)
    case waitDone =>
      simp only [hostWaitDone] at h
      split_ifs at h <;> (cases h; exact .quiet _ _ s.mem)
    case waitIrq =>
      simp only [hostWaitIrq] at h
      split_ifs at h <;> (cases h; exact .quiet _ s.resp s.mem)
    case engine => exact .engine rest h
    case memWrite a data =>
      simp only [agentWrite] at h
      split_ifs at h
      cases h
      exact .quiet rest s.resp _
    case hardReset => cases h; exact .hardReset rest hs

end Sys2Proof.Machine
end

section
/-! DROP, BUSY, DONE and the digest change only by their rules (O51, O52, O53). -/

namespace Sys2Proof.Machine

/-- The offset of a guarded register is one of the six of 10_state.md R36. -/
theorem Guarded.offset_mem {p : Params} {r : Reg} (h : Guarded p r) :
    r.offset ∈ [0x14, 0x18, 0x20, 0x24, 0x28, 0x2C] := List.mem_map_of_mem (f := Reg.offset) h.1

theorem Reg.offset_injective {r q : Reg} (h : r.offset = q.offset) : r = q :=
  Option.some.inj (by rw [← regAt_offset r, ← regAt_offset q, h])

theorem engineStep_drop {s t : State} (h : engineStep s = .next t) : t.drop = s.drop := by
  rcases engineStep_cases h with ⟨_, rfl⟩ | ⟨_, r, rest, _, _, rfl⟩ | ⟨_, r, rest, _, _, rfl⟩ |
    ⟨_, _, v, _, rfl⟩
  · rfl
  · rfl
  · rfl
  · exact complete_drop ..

/-- An engine step leaves BUSY and DONE alone, or it ends the running command. -/
theorem engineStep_ends {s t : State} (h : engineStep s = .next t) :
    (t.phase = s.phase ∧ t.done = s.done) ∨
    (s.phase = .run ∧ t.phase = .idle ∧ t.done = true ∧ t.plan = [] ∧ t.bytes = []) := by
  rcases engineStep_cases h with ⟨_, rfl⟩ | ⟨hp, r, rest, _, _, rfl⟩ | ⟨_, r, rest, _, _, rfl⟩ |
    ⟨hp, _, v, _, rfl⟩
  · exact .inl ⟨rfl, rfl⟩
  · exact .inr ⟨hp, rfl, rfl, rfl, rfl⟩
  · exact .inl ⟨rfl, rfl⟩
  · exact .inr ⟨hp, rfl, rfl, rfl, rfl⟩

section
variable {s t : State} (h : Moved s t)
include h

/-- What clears DROP (10_state.md R49). -/
theorem Moved.cause_of_drop_falls (hs : s.drop = true) (ht : t.drop = false) :
    ∃ v rest, (Writes s 0x10 v rest ∧ v.getLsbD 8 = true) ∨ (Writes s 0x0C v rest ∧ v.getLsbD 1 = true) ∨
      s.script = .hardReset :: rest := by
  cases h with
  | quiet => simp_all
  | engine script he => simp_all [engineStep_drop he]
  | hardReset rest hr => exact ⟨0#32, rest, .inr (.inr hr)⟩
  | write r v rest hw h =>
    cases h with
    | reset hr hv => subst hr; exact ⟨v, rest, .inr (.inl ⟨hw, hv⟩)⟩
    | status hr => subst hr; exact ⟨v, rest, .inl ⟨hw, by simpa [hs] using ht⟩⟩
    | _ => simp_all [accepted]

/-- What sets DROP (10_state.md R36). -/
theorem Moved.cause_of_drop_rises (hs : s.drop = false) (ht : t.drop = true) :
    s.phase = .run ∧ ∃ o ∈ [0x14, 0x18, 0x20, 0x24, 0x28, 0x2C],
      (o = 0x24 → s.params.addrW = .w64) ∧ ∃ v rest, Writes s o v rest := by
  cases h with
  | quiet => simp_all
  | engine script he => simp_all [engineStep_drop he]
  | hardReset rest hr => simp_all
  | write r v rest hw h =>
    cases h with
    | dropped hp hg =>
      exact ⟨hp, r.offset, hg.offset_mem, fun ho => hg.2 (Reg.offset_injective ho), v, rest, hw⟩
    | _ => simp_all [accepted]

/-- What sets BUSY (10_state.md R45). -/
theorem Moved.cause_of_busy_rises (hs : s.phase = .idle) (ht : t.phase = .run) :
    ∃ w rest v, Writes s 0x14 w rest ∧ variantOfOpc (decodeWord w).opc = some v ∧
      Accepts s.params v s.src s.inputLen ∧ t.done = false ∧ t.errcode = 0#4 := by
  cases h with
  | quiet => simp_all
  | engine script he => rcases engineStep_ends he with ⟨hp, _⟩ | ⟨hp, _⟩ <;> simp_all
  | hardReset rest hr => simp_all
  | write r v rest hw h =>
    cases h with
    | started hr hp m hm ha => subst hr; exact ⟨v, rest, m, hw, hm, ha, rfl, rfl⟩
    | _ => simp_all

/-- What sets DONE (10_state.md R46). -/
theorem Moved.cause_of_done_rises (hs : s.done = false) (ht : t.done = true) :
    t.phase = .idle ∧ t.plan = [] ∧ t.bytes = [] ∧
      (s.phase = .run ∨ ∃ w rest, Writes s 0x14 w rest) := by
  cases h with
  | quiet => simp_all
  | engine script he =>
    rcases engineStep_ends he with ⟨_, hd⟩ | ⟨hp, hi, _, hplan, hbytes⟩
    · simp_all
    · exact ⟨hi, hplan, hbytes, .inl hp⟩
  | hardReset rest hr => simp_all
  | write r v rest hw h =>
    cases h with
    | failed hr hp e => subst hr; exact ⟨rfl, rfl, rfl, .inr ⟨v, rest, hw⟩⟩
    | _ => simp_all [accepted]

/-- What clears BUSY (10_state.md R45). -/
theorem Moved.cause_of_busy_falls (hs : s.phase = .run) (ht : t.phase = .idle) :
    t.done = true ∨ (∃ v rest, Writes s 0x0C v rest ∧ v.getLsbD 1 = true) ∨
      ∃ rest, s.script = .hardReset :: rest := by
  cases h with
  | quiet => simp_all
  | engine script he =>
    rcases engineStep_ends he with ⟨hp, _⟩ | ⟨_, _, hd, _⟩
    · simp_all
    · exact .inl hd
  | hardReset rest hr => exact .inr (.inr ⟨rest, hr⟩)
  | write r v rest hw h =>
    cases h with
    | reset hr hv => subst hr; exact .inr (.inl ⟨v, rest, hw, hv⟩)
    | _ => simp_all

/-- What clears DONE (10_state.md R46). -/
theorem Moved.cause_of_done_falls (hs : s.done = true) (ht : t.done = false) :
    (∃ w rest, Writes s 0x14 w rest ∧ s.phase = .idle) ∨
    (∃ v rest, Writes s 0x10 v rest ∧ v.getLsbD 1 = true) ∨
    (∃ v rest, Writes s 0x0C v rest ∧ v.getLsbD 1 = true) ∨
    ∃ rest, s.script = .hardReset :: rest := by
  cases h with
  | quiet => simp_all
  | engine script he => rcases engineStep_ends he with ⟨_, hd⟩ | ⟨_, _, hd, _⟩ <;> simp_all
  | hardReset rest hr => exact .inr (.inr (.inr ⟨rest, hr⟩))
  | write r v rest hw h =>
    cases h with
    | reset hr hv => subst hr; exact .inr (.inr (.inl ⟨v, rest, hw, hv⟩))
    | status hr => subst hr; exact .inr (.inl ⟨v, rest, hw, by simpa [hs] using ht⟩)
    | started hr hp => subst hr; exact .inl ⟨v, rest, hw, hp⟩
    | _ => simp_all

end

/-- Settles O51. -/
theorem dropChangesOnlyByItsRules : Obligations.DropChangesOnlyByItsRules := fun _ _ hstep =>
  have h := moved_of_step hstep
  ⟨h.cause_of_drop_falls, h.cause_of_drop_rises⟩

/-- Settles O52. -/
theorem busyAndDoneChangeOnlyByTheirRules : Obligations.BusyAndDoneChangeOnlyByTheirRules :=
  fun _ _ hstep =>
  have h := moved_of_step hstep
  ⟨h.cause_of_busy_rises, h.cause_of_done_rises, h.cause_of_busy_falls, h.cause_of_done_falls⟩

/-- Settles O53. -/
theorem digestChangesOnlyByAcceptanceCompletionOrReset :
    Obligations.DigestChangesOnlyByAcceptanceCompletionOrReset := by
  intro s t hstep
  cases moved_of_step hstep with
  | quiet => exact .inl ⟨rfl, rfl, rfl, rfl⟩
  | hardReset rest hr => exact .inr (.inl ⟨⟨rfl, rfl, rfl, rfl⟩, .inr (.inr ⟨rest, hr⟩)⟩)
  | engine script he =>
    rcases engineStep_cases he with ⟨_, rfl⟩ | ⟨_, r, rest, _, _, rfl⟩ | ⟨_, r, rest, _, _, rfl⟩ |
      ⟨hp, hl, v, _, rfl⟩
    · exact .inl ⟨rfl, rfl, rfl, rfl⟩
    · exact .inl ⟨rfl, rfl, rfl, rfl⟩
    · exact .inl ⟨rfl, rfl, rfl, rfl⟩
    · exact .inr (.inr ⟨hp, hl, rfl, rfl, rfl⟩)
  | write r v rest hw h =>
    cases h with
    | reset hr hv => subst hr; exact .inr (.inl ⟨⟨rfl, rfl, rfl, rfl⟩, .inr (.inl ⟨v, rest, hw, hv⟩)⟩)
    | failed hr hp e =>
      subst hr; exact .inr (.inl ⟨⟨rfl, rfl, rfl, rfl⟩, .inl ⟨hp, v, rest, hw⟩⟩)
    | started hr hp m hm ha =>
      subst hr; exact .inr (.inl ⟨⟨rfl, rfl, rfl, rfl⟩, .inl ⟨hp, v, rest, hw⟩⟩)
    | _ => exact .inl ⟨rfl, rfl, rfl, rfl⟩

end Sys2Proof.Machine
end

section
/-! The read space (20_memory.md): the words the digest functions take from the input (O15), and who writes
the space (O49, O50). -/

namespace Sys2Proof.Machine

/-! Little-endian words (R82) -/

/-- A byte moved to the lane at bit `n` of a word is what lane `j` reads if that is its lane, and no part of
it otherwise. -/
theorem extractLsb'_setWidth_shiftLeft {w n j : Nat} (x : Byte) (hn : 8 ∣ n) (hw : 8 * j + 8 ≤ w) :
    (x.setWidth w <<< n).extractLsb' (8 * j) 8 = if n = 8 * j then x else 0#8 := by
  obtain ⟨i, rfl⟩ := hn
  ext k hk
  simp only [BitVec.getElem_extractLsb', BitVec.getLsbD_shiftLeft, BitVec.getLsbD_setWidth]
  rcases Nat.lt_trichotomy i j with hij | rfl | hij
  · rw [if_neg (by omega), BitVec.getLsbD_of_ge x _ (by omega)]
    simp
  · rw [if_pos rfl, Nat.add_sub_cancel_left, BitVec.getLsbD_eq_getElem hk]
    simp [show 8 * i + k < w by omega, show k < w by omega]
  · rw [if_neg (by omega)]
    simp [show 8 * j + k < 8 * i by omega]

/-- A byte that is not moved stands in lane 0. -/
theorem extractLsb'_setWidth {w j : Nat} (x : Byte) (hw : 8 * j + 8 ≤ w) :
    (x.setWidth w).extractLsb' (8 * j) 8 = if 0 = 8 * j then x else 0#8 := by
  simpa using extractLsb'_setWidth_shiftLeft x (dvd_zero 8) hw

/-- Of the four bytes only the one whose lane is `j` is left. -/
theorem extractLsb'_le32 (b : List Byte) (i : Nat) {j : Nat} (hj : j < 4) :
    (le32 b i).extractLsb' (8 * j) 8 = byteAt b (i + j) := by
  simp (disch := omega) only [le32, byte32, BitVec.extractLsb'_or,
    extractLsb'_setWidth, extractLsb'_setWidth_shiftLeft]
  interval_cases j <;> simp

/-- Of the eight bytes only the one whose lane is `j` is left. -/
theorem extractLsb'_le64 (b : List Byte) (i : Nat) {j : Nat} (hj : j < 8) :
    (le64 b i).extractLsb' (8 * j) 8 = byteAt b (i + j) := by
  simp (disch := omega) only [le64, byte64, BitVec.extractLsb'_or,
    extractLsb'_setWidth, extractLsb'_setWidth_shiftLeft]
  interval_cases j <;> simp

/-- Settles O15. -/
theorem wordReadsAreLittleEndian : Obligations.WordReadsAreLittleEndian :=
  fun b i => ⟨fun _ => extractLsb'_le32 b i, fun _ => extractLsb'_le64 b i⟩

/-! Who writes the read space (R84, R92) -/

/-- The core only reads the space (40_operation.md R150, R155). -/
theorem engineStep_mem {s t : State} (h : engineStep s = .next t) : t.mem = s.mem := by
  rcases engineStep_cases h with ⟨_, rfl⟩ | ⟨_, r, rest, _, _, rfl⟩ | ⟨_, r, rest, _, _, rfl⟩ |
    ⟨_, _, v, _, rfl⟩
  · rfl
  · rfl
  · rfl
  · exact complete_mem ..

/-- No register write reaches the read space, a command's acceptance included. -/
theorem Written.mem_eq {r : Reg} {v : Word} {s t : State} (h : Written r v s t) : t.mem = s.mem := by
  cases h <;> rfl

/-- Every event but another agent's write leaves the read space alone. -/
theorem runEvent_mem {e : Event} {s t : State} (h : runEvent e s = .next t)
    (he : ∀ a data, e ≠ .memWrite a data) : t.mem = s.mem := by
  cases e <;> simp only [runEvent] at h
  case hostRead addr size =>
    obtain ⟨x, rfl⟩ := hostRead_resp h
    rfl
  case hostWrite addr size v =>
    rcases hostWrite_cases h with ⟨x, rfl⟩ | ⟨r, rfl, rfl, hw⟩
    · rfl
    · exact (written_of_writeReg hw).mem_eq
  case waitDone =>
    simp only [hostWaitDone] at h
    split_ifs at h <;> (cases h; rfl)
  case waitIrq =>
    simp only [hostWaitIrq] at h
    split_ifs at h <;> (cases h; rfl)
  case engine => exact engineStep_mem h
  case memWrite a data => exact absurd rfl (he a data)
  case hardReset => cases h; rfl

/-- With nothing pending the engine moves (40_operation.md R158). -/
theorem step_of_empty_script {s : State} (h : s.script = []) : step s = engineStep s := by
  simp [step, nextStep, h]

/-- Settles O49: a step with no agent's write next in the script is the engine's or another event's. -/
theorem onlyAnAgentsWriteChangesMemory : Obligations.OnlyAnAgentsWriteChangesMemory := by
  intro s t hstep
  cases hs : s.script with
  | nil => exact .inl (engineStep_mem (step_of_empty_script hs ▸ hstep))
  | cons e rest =>
    by_cases he : ∃ a data, e = .memWrite a data
    · obtain ⟨a, data, rfl⟩ := he
      exact .inr ⟨a, data, rest, rfl⟩
    · rw [step_of_script hs] at hstep
      exact .inl (runEvent_mem (s := { s with script := rest }) hstep fun a data h => he ⟨a, data, h⟩)

/-- Another agent's write inside the read space puts its bytes and changes nothing else (R92). -/
theorem step_of_memWrite {s : State} {a : Nat} {data : List Byte} {rest : List Event}
    (hs : s.script = .memWrite a data :: rest) (hin : a + data.length ≤ spaceSize s.params) :
    step s = .next { s with script := rest, mem := memPutList s.mem a data } := by
  rw [step_of_script hs]
  exact if_neg hin.not_gt

/-- Settles O50, by the laws of the canonical form. -/
theorem agentWriteThenReadReturnsTheBytes : Obligations.AgentWriteThenReadReturnsTheBytes := by
  intro s a data rest hwf hs hin
  exact ⟨memPutList s.mem a data, step_of_memWrite hs hin, memWf_memPutList a data hwf,
    fun x => memByte_memPutList a data x hwf⟩

end Sys2Proof.Machine
end

section
/-! The command word (30_encoding.md R110 to R114): the decoder and the encoder undo each other (O1, O2, O3),
and a command does what its OPC says, whatever its ignored bits (O4). -/

namespace Sys2Proof

/-- The four bits the decoder looks at are those of the OPC field. -/
theorem getLsbD_eq_opcField (w : Word) {k : Nat} (hk : k < 4) :
    w.getLsbD k = (w.extractLsb' 0 4).getLsbD k := by simp [hk]

/-- Four bits determine the OPC field. -/
theorem eq_opcField_of_bits {w : Word} {o : BitVec 4} (h3 : w.getLsbD 3 = o.getLsbD 3)
    (h2 : w.getLsbD 2 = o.getLsbD 2) (h1 : w.getLsbD 1 = o.getLsbD 1) (h0 : w.getLsbD 0 = o.getLsbD 0) :
    o = w.extractLsb' 0 4 := by
  refine BitVec.eq_of_getLsbD_eq fun k hk => ?_
  rw [← getLsbD_eq_opcField w hk]
  interval_cases k
  · exact h0.symm
  · exact h1.symm
  · exact h2.symm
  · exact h3.symm

/-- The OPC of the decoded command is the word's bits [3:0] (R110, R113, R114). -/
@[simp] theorem opc_decodeWord (w : Word) : (decodeWord w).opc = w.extractLsb' 0 4 := by
  unfold decodeWord
  split
  all_goals
    rename_i h3 h2 h1 h0
    simp only [Instr.opc]
    exact eq_opcField_of_bits (h3.trans (by decide)) (h2.trans (by decide)) (h1.trans (by decide))
      (h0.trans (by decide))

/-- The decoder keeps the word's bits [31:4] (R110). -/
@[simp] theorem ignored_decodeWord (w : Word) : (decodeWord w).ignored = w.extractLsb' 4 28 := by
  unfold decodeWord
  split <;> rfl

/-- A word is its two fields put together. -/
theorem encode_decodeWord (w : Word) : encode (decodeWord w) = w := by
  rw [encode, opc_decodeWord, ignored_decodeWord]
  exact (BitVec.extractLsb'_append_extractLsb'_eq_extractLsb' rfl).trans BitVec.extractLsb'_eq_self

/-- Constructor by constructor: the OPC field of the encoding picks the constructor, the field above it is
its operand. -/
theorem decodeWord_encode (i : Instr) : decodeWord (encode i) = i := by
  obtain ⟨hopc, hignored⟩ : Laws.CommandWord.Statement i := Laws.CommandWord.fields i.ignored i.opc
  have hbit {k : Nat} (hk : k < 4) : (encode i).getLsbD k = i.opc.getLsbD k := by
    rw [getLsbD_eq_opcField _ hk, hopc]
  rw [decodeWord, ignoredField, hignored, hbit (k := 3) (by decide), hbit (k := 2) (by decide),
    hbit (k := 1) (by decide), hbit (k := 0) (by decide)]
  cases i <;> simp [Instr.opc, Instr.ignored]

/-- The four bytes of a bus data word make up the word (R112). -/
theorem bytes_append (w : Word) :
    w.extractLsb' 24 8 ++ w.extractLsb' 16 8 ++ w.extractLsb' 8 8 ++ w.extractLsb' 0 8 = w := by
  rw [BitVec.extractLsb'_append_extractLsb'_eq_extractLsb' (show 24 = 16 + 8 from rfl),
    BitVec.extractLsb'_append_extractLsb'_eq_extractLsb' (show 16 = 8 + 8 from rfl),
    BitVec.extractLsb'_append_extractLsb'_eq_extractLsb' (show 8 = 0 + 8 from rfl)]
  exact BitVec.extractLsb'_eq_self

theorem decodeBytes_encodeBytes (i : Instr) : decodeBytes (encodeBytes i) = .ok i := by
  rw [encodeBytes, decodeBytes, bytes_append, decodeWord_encode]

/-- A table row of all 32 bits is the word itself. -/
theorem decodeTableWord_toNat (w : Word) : decodeTableWord 32 w.toNat = some (decodeWord w) := by
  simp [decodeTableWord, Nat.mod_eq_of_lt w.isLt]

/-- Only four bytes are a command (R112). -/
theorem decodeBytes_of_length_ne {bs : List Byte} (h : bs.length ≠ 4) :
    decodeBytes bs = .error (.notOneWord bs.length) := by
  unfold decodeBytes
  split
  · exact absurd rfl h
  · rfl

/-- Settles O2. -/
theorem decodeOfEncodeIsTheCommand : Obligations.DecodeOfEncodeIsTheCommand := fun i =>
  ⟨decodeWord_encode i, decodeBytes_encodeBytes i, by rw [decodeTableWord_toNat, decodeWord_encode]⟩

/-- Settles O3. -/
theorem encodeOfDecodeIsTheWord : Obligations.EncodeOfDecodeIsTheWord :=
  ⟨encode_decodeWord, fun _ => decodeBytes_of_length_ne⟩

/-- Settles O1, by evaluating the decoder at each word. -/
theorem specWordsDecodeToTheirCommands : Obligations.SpecWordsDecodeToTheirCommands :=
  ⟨rfl, rfl, rfl, rfl, rfl, rfl, rfl, rfl, rfl⟩

end Sys2Proof

namespace Sys2Proof.Machine

/-- A command's meaning depends on its OPC alone (R111). -/
theorem exec_eq_of_opc_eq {i j : Instr} (h : i.opc = j.opc) (s : State) : exec i s = exec j s := by
  cases hv : variantOfOpc i.opc with
  | none => rw [exec_of_reserved hv, exec_of_reserved (h ▸ hv), h]
  | some v => rw [exec_of_variant hv, exec_of_variant (h ▸ hv)]

/-- An accepted command leaves its OPC in CMD (40_operation.md R142). -/
theorem cmdOpc_of_exec {i : Instr} {s t : State} (hp : s.phase = .idle) (h : exec i s = .next t) :
    t.cmdOpc = i.opc := by
  rcases exec_cases h with ⟨hrun, _⟩ | ⟨_, e, rfl⟩ | ⟨_, v, hv, _, rfl⟩
  · exact absurd (hp.symm.trans hrun) (by decide)
  · rfl
  · exact opc_of_variantOfOpc hv

/-- The OPC field as a register value is the word with bits [31:4] at 0 (10_state.md R50). -/
theorem setWidth_opcField (w : Word) : (w.extractLsb' 0 4).setWidth 32 = w &&& 0xF#32 := by
  refine BitVec.eq_of_toNat_eq ?_
  rw [BitVec.toNat_and, ← BitVec.setWidth_eq_extractLsb' (by decide), BitVec.toNat_setWidth_of_le (by decide),
    BitVec.toNat_setWidth]
  exact (Nat.and_two_pow_sub_one_eq_mod w.toNat 4).symm

/-- Settles O4. -/
theorem ignoredBitsNeverChangeTheCommand : Obligations.IgnoredBitsNeverChangeTheCommand := by
  refine ⟨fun w w' s h => exec_eq_of_opc_eq (by simpa using h) s, fun w s t hp h => ?_⟩
  rw [readReg, cmdWord, cmdOpc_of_exec hp h, opc_decodeWord, setWidth_opcField]

end Sys2Proof.Machine
end

section
/-! SEED_HI reaches no command with a 32-bit seed (30_encoding.md R116; O29): acceptance and each engine step
commute with setting it. -/

namespace Sys2Proof.Machine

/-- `s` with another SEED_HI. -/
abbrev withSeedHi (x : Word) (s : State) : State := { s with seedHi := x }

/-- The commands whose SEED is SEED_LO alone (R116). -/
def Seed32 (v : Variant) : Prop := v ≠ .hash64a ∧ v ≠ .hash64b

theorem accept_withSeedHi (o : BitVec 4) (check : Option ErrCode) (reads : List ReadReq) (x : Word)
    (s : State) : accept o check reads (withSeedHi x s) = withSeedHi x (accept o check reads s) := by
  cases check <;> rfl

/-- Acceptance looks at no seed register (40_operation.md R142 to R144). -/
theorem submitVariant_withSeedHi (v : Variant) (x : Word) (s : State) :
    submitVariant v (withSeedHi x s) = withSeedHi x (submitVariant v s) := by
  have hbusy : (withSeedHi x s).busy = s.busy := rfl
  unfold submitVariant submit
  rw [hbusy]
  cases s.busy with
  | true => rfl
  | false => exact accept_withSeedHi ..

theorem digestOf_withSeedHi {v : Variant} (hv : Seed32 v) (x : Word) (s : State) :
    digestOf v (withSeedHi x s) = digestOf v s := by
  cases v
  case hash64a => exact absurd rfl hv.1
  case hash64b => exact absurd rfl hv.2
  all_goals rfl

theorem complete_withSeedHi (d : Digest) (x : Word) (s : State) :
    complete d (withSeedHi x s) = withSeedHi x (complete d s) := by
  cases d <;> rfl

/-! The three engine steps (40_operation.md R140, R150, R155) -/

theorem engineStep_of_idle {s : State} (hp : s.phase = .idle) : engineStep s = .next s := by
  simp only [engineStep, hp]

theorem engineStep_of_plan_cons {s : State} {r : ReadReq} {rest : List ReadReq} (hp : s.phase = .run)
    (hl : s.plan = r :: rest) : engineStep s = readStep r rest s := by
  simp only [engineStep, hp, hl]

theorem engineStep_of_plan_nil {s : State} {v : Variant} (hp : s.phase = .run) (hl : s.plan = [])
    (hv : variantOfOpc s.cmdOpc = some v) : engineStep s = .next (complete (digestOf v s) s) := by
  simp only [engineStep, hp, hl, completeStep, hv]

theorem engineStep_cmdOpc {s t : State} (h : engineStep s = .next t) : t.cmdOpc = s.cmdOpc := by
  rcases engineStep_cases h with ⟨_, rfl⟩ | ⟨_, r, rest, _, _, rfl⟩ | ⟨_, r, rest, _, _, rfl⟩ |
    ⟨_, _, v, _, rfl⟩
  · rfl
  · rfl
  · rfl
  · exact complete_cmdOpc ..

/-- A read uses no seed register (R150). -/
theorem readStep_withSeedHi {r : ReadReq} {rest : List ReadReq} {s t : State} (x : Word)
    (h : readStep r rest s = .next t) : readStep r rest (withSeedHi x s) = .next (withSeedHi x t) := by
  unfold readStep at h
  split_ifs at h with hspace halign hbus
  · cases h
    exact (if_neg hspace).trans ((if_neg halign).trans (if_pos hbus))
  · cases h
    exact (if_neg hspace).trans ((if_neg halign).trans (if_neg hbus))

theorem engineStep_withSeedHi {v : Variant} (hv : Seed32 v) (x : Word) {s t : State}
    (ho : variantOfOpc s.cmdOpc = some v) (h : engineStep s = .next t) :
    engineStep (withSeedHi x s) = .next (withSeedHi x t) := by
  rcases idle_or_run s with hp | hp
  · rw [engineStep_of_idle hp] at h
    cases h
    exact engineStep_of_idle hp
  · cases hl : s.plan with
    | cons r rest =>
      rw [engineStep_of_plan_cons hp hl] at h
      exact (engineStep_of_plan_cons (s := withSeedHi x s) hp hl).trans (readStep_withSeedHi x h)
    | nil =>
      rw [engineStep_of_plan_nil hp hl ho] at h
      cases h
      rw [engineStep_of_plan_nil (s := withSeedHi x s) hp hl ho, digestOf_withSeedHi hv,
        complete_withSeedHi]

theorem engineRun_withSeedHi {v : Variant} (hv : Seed32 v) (x : Word) {n : Nat} {s t : State}
    (ho : variantOfOpc s.cmdOpc = some v) (h : engineRun n s = .next t) :
    engineRun n (withSeedHi x s) = .next (withSeedHi x t) := by
  induction n generalizing s with
  | zero => cases h; rfl
  | succ n ih =>
    unfold engineRun at h ⊢
    cases hstep : engineStep s with
    | next u =>
      rw [hstep] at h
      rw [engineStep_withSeedHi hv x ho hstep]
      exact ih (by rwa [engineStep_cmdOpc hstep]) h
    | fault r => rw [hstep] at h; cases h
    | refused r => rw [hstep] at h; cases h

/-- Settles O29. -/
theorem seedHiIsNotReadBy32BitSeedCommands : Obligations.SeedHiIsNotReadBy32BitSeedCommands := by
  intro i v s t u x n hv ha hb hp hexec hrun
  have ht : variantOfOpc t.cmdOpc = some v := by rw [cmdOpc_of_exec hp hexec, hv]
  rw [exec_of_variant hv] at hexec
  cases hexec
  refine ⟨withSeedHi x (submitVariant v s), ?_, engineRun_withSeedHi ⟨ha, hb⟩ x ht hrun⟩
  rw [exec_of_variant hv, submitVariant_withSeedHi]

end Sys2Proof.Machine
end

section
/-! What the host's program lines do (30_encoding.md R119, R120): the waits (O45), and a HASH line as the run
of its register writes (O44). -/

namespace Sys2Proof.Machine

/-- Settles O45: each wait at both values of its condition. -/
theorem waitsGoOnOnlyWhenTheirConditionHolds : Obligations.WaitsGoOnOnlyWhenTheirConditionHolds := by
  refine fun s rest => ⟨fun h => ?_, fun h => ?_⟩
  · rw [step_of_script h]
    by_cases hdone : s.done
    · rw [if_pos hdone]
      exact if_pos hdone
    · rw [if_neg hdone]
      exact if_neg hdone
  · rw [step_of_script h]
    by_cases hirq : s.ie && s.done
    · rw [if_pos hirq]
      exact if_pos hirq
    · rw [if_neg hirq]
      exact if_neg hirq

/-- The run of any machine takes its first step first. -/
theorem core_run_succ (M : Host.Core) {s t : M.State} (k : Nat) (h : M.step s = .next t) :
    M.run (k + 1) s = M.run k t := by
  simp only [Host.Core.run, h]

/-- While no command runs, a program goes on from a write that BUSY would drop with that write done. -/
theorem run_succ_of_writes {s t : State} {r : Reg} {v : Word} {rest : List Event} {k : Nat}
    (h : Writes s r.offset v rest) (hp : s.phase = .idle)
    (hw : writeReg r v { s with script := rest, resp := .written } =
      .next (guardedWrite t { s with script := rest, resp := .written })) :
    Host.Core.run Sys2Proof.core (k + 1) s = Host.Core.run Sys2Proof.core k t :=
  core_run_succ Sys2Proof.core k <|
    (step_of_writes h).trans (hw.trans (congrArg Host.Outcome.next (guardedWrite_idle t hp)))

/-- A program that ends in a write to CMD ends in the command the word decodes to. -/
theorem run_one_of_writes_cmd {s : State} {w : Word} {rest : List Event} (h : Writes s Reg.cmd.offset w rest) :
    Host.Core.run Sys2Proof.core 1 s = exec (decodeWord w) { s with script := rest, resp := .written } := by
  obtain ⟨t, ht⟩ := exec_total (decodeWord w) { s with script := rest, resp := .written }
  have hstep : step s = .next t := (step_of_writes h).trans ht
  exact (core_run_succ Sys2Proof.core 0 hstep).trans ht.symm

/-- SRC_HI is a register where P_ADDR_W = 64 (10_state.md R52). -/
theorem writeReg_srcHi {s : State} (v : Word) (hw : s.params.addrW = .w64) :
    writeReg .srcHi v s = .next (guardedWrite { s with srcHi := v } s) := by
  simp only [writeReg, hw]

section
variable {p : Params} (m : Variant) (a : DWord) (l : Word) (seed : DWord)

theorem hashProgram_w64 (hw : p.addrW = .w64) : hashProgram p m a l seed =
    [wr p .srcLo (a.extractLsb' 0 32), wr p .srcHi (a.extractLsb' 32 32), wr p .len l,
      wr p .seedLo (seed.extractLsb' 0 32), wr p .seedHi (seed.extractLsb' 32 32),
      wr p .cmd (m.opc.setWidth 32)] := by
  simp [hashProgram, hw]

theorem hashProgram_w32 (hw : p.addrW = .w32) : hashProgram p m a l seed =
    [wr p .srcLo (a.extractLsb' 0 32), wr p .len l, wr p .seedLo (seed.extractLsb' 0 32),
      wr p .seedHi (seed.extractLsb' 32 32), wr p .cmd (m.opc.setWidth 32)] := by
  simp [hashProgram, hw]

end

/-- The writes a HASH program ends with at either address width. -/
theorem run_four_of_script {s : State} {l lo hi w : Word} (hp : s.phase = .idle)
    (hs : s.script =
      [wr s.params .len l, wr s.params .seedLo lo, wr s.params .seedHi hi, wr s.params .cmd w]) :
    Host.Core.run Sys2Proof.core 4 s = exec (decodeWord w)
      { s with script := [], resp := .written, len := l, seedLo := lo, seedHi := hi } := by
  refine Eq.trans (run_succ_of_writes (r := .len) hs hp rfl) ?_
  refine Eq.trans (run_succ_of_writes (r := .seedLo) rfl hp rfl) ?_
  refine Eq.trans (run_succ_of_writes (r := .seedHi) rfl hp rfl) ?_
  exact run_one_of_writes_cmd rfl

/-- Settles O44: one step per write of the program, at either address width. -/
theorem hashPseudoInstructionIssuesTheCommand : Obligations.HashPseudoInstructionIssuesTheCommand := by
  intro s m a l seed hp hs
  have hopc : (decodeWord (m.opc.setWidth 32)).opc = m.opc := by
    rw [opc_decodeWord]
    cases m <;> rfl
  refine ⟨_, hopc, fun hw => ?_, fun hw => ?_⟩
  · rw [hashProgram_w64 m a l seed hw] at hs
    refine Eq.trans (run_succ_of_writes (r := .srcLo) hs hp rfl) ?_
    refine Eq.trans (run_succ_of_writes (r := .srcHi) rfl hp (writeReg_srcHi _ hw)) ?_
    exact run_four_of_script hp rfl
  · rw [hashProgram_w32 m a l seed hw] at hs
    refine Eq.trans (run_succ_of_writes (r := .srcLo) hs hp rfl) ?_
    exact run_four_of_script hp rfl

end Sys2Proof.Machine
end

section
/-! Acceptance (40_operation.md R142 to R144): a command whose checks pass is accepted (O6), and no check looks
at the memory (O11). -/

namespace Sys2Proof.Machine

/-- A command whose checks pass starts with its whole plan before it. -/
theorem exec_of_accepts {i : Instr} {v : Variant} {s : State} (hv : variantOfOpc i.opc = some v)
    (hp : s.phase = .idle) (ha : Accepts s.params v s.src s.inputLen) :
    exec i s = .next (accepted v s) := by
  rw [exec_of_variant hv, submitVariant, submit, not_busy_iff.2 hp, acceptError_none_iff.2 ha]
  rfl

/-- A command that runs after its acceptance is one whose checks passed. -/
theorem accepted_of_exec_runs {i : Instr} {v : Variant} {s t : State} (hv : variantOfOpc i.opc = some v)
    (hp : s.phase = .idle) (h : exec i s = .next t) (ht : t.phase = .run) :
    Accepts s.params v s.src s.inputLen ∧ t = accepted v s := by
  rcases exec_cases h with ⟨hr, _⟩ | ⟨_, e, rfl⟩ | ⟨_, m, hm, ha, rfl⟩
  · exact absurd (hp.symm.trans hr) (by decide)
  · exact absurd ht (by simp)
  · obtain rfl : v = m := Option.some.inj (hv.symm.trans hm)
    exact ⟨ha, rfl⟩

/-- Settles O6. -/
theorem variantCommandIsAccepted : Obligations.VariantCommandIsAccepted := by
  intro i v s hv hp ha
  rw [exec_of_accepts hv hp ha, ← opc_of_variantOfOpc hv]
  rfl

/-- `s` with another memory. -/
abbrev withMem (m : List Host.Cell) (s : State) : State := { s with mem := m }

/-- Every outcome of a command write, dropped, failed or started, is the same over another memory. -/
theorem submit_withMem (o : BitVec 4) (check : Option ErrCode) (reads : List ReadReq)
    (m : List Host.Cell) (s : State) :
    submit o check reads (withMem m s) = withMem m (submit o check reads s) := by
  have hbusy : (withMem m s).busy = s.busy := rfl
  unfold submit
  rw [hbusy]
  cases s.busy with
  | true => rfl
  | false => cases check <;> rfl

theorem exec_withMem {i : Instr} {s t : State} (m : List Host.Cell) (h : exec i s = .next t) :
    exec i (withMem m s) = .next (withMem m t) := by
  cases hv : variantOfOpc i.opc with
  | none =>
    rw [exec_of_reserved hv] at h ⊢
    cases h
    exact congrArg _ (submit_withMem ..)
  | some v =>
    rw [exec_of_variant hv] at h ⊢
    cases h
    exact congrArg _ (submit_withMem ..)

theorem exec_mem {i : Instr} {s t : State} (h : exec i s = .next t) : t.mem = s.mem := by
  rcases exec_cases h with ⟨_, rfl⟩ | ⟨_, e, rfl⟩ | ⟨_, v, _, _, rfl⟩ <;> rfl

/-- Settles O11. -/
theorem acceptanceNeverLooksAtMemory : Obligations.AcceptanceNeverLooksAtMemory :=
  fun _ _ _ m h => ⟨exec_mem h, exec_withMem m h⟩

end Sys2Proof.Machine
end

section
/-! Read plans (40_operation.md R146 to R148): each discipline's plan (O13), and what every plan reads, in
which order and how aligned (O14). -/

namespace Sys2Proof.Machine

/-- The plan by its word size and word count, where no address wraps (R147). -/
theorem planOf_eq_wordsThenBytes {p : Params} (v : Variant) {src l : Nat} (h : src + l ≤ spaceSize p) :
    planOf p v src l = wordsThenBytes (wordSize v) (wordCount v src l) src l := planOf_eq h

/-- Settles O13: the rows of R146 are the values of `wordSize` and `wordCount`. -/
theorem planFollowsTheDiscipline : Obligations.PlanFollowsTheDiscipline := by
  intro p src l h
  have hplan (v : Variant) := planOf_eq_wordsThenBytes v h
  refine ⟨fun v hv => ?_, hplan .hash3x86_128, hplan .hash64a, hplan .hash3x64_128, fun v hv => ?_, ?_⟩
  · simp only [List.mem_cons, List.not_mem_nil, or_false] at hv
    rcases hv with rfl | rfl | rfl | rfl | rfl <;> exact hplan _
  · simp only [List.mem_cons, List.not_mem_nil, or_false] at hv
    rcases hv with rfl | rfl <;> exact hplan _
  · simp [hplan, wordsThenBytes, wordCount]

/-! The addresses read -/

@[simp] theorem readAddrs_nil : readAddrs [] = [] := rfl

@[simp] theorem readAddrs_cons (r : ReadReq) (rs : List ReadReq) :
    readAddrs (r :: rs) = (List.range r.size.bytes).map (fun i => r.addr + i) ++ readAddrs rs := rfl

@[simp] theorem readAddrs_append (a b : List ReadReq) :
    readAddrs (a ++ b) = readAddrs a ++ readAddrs b := by
  simp [readAddrs]

/-- A range of addresses is its first `n` and the rest. -/
theorem map_add_range_add (a n m : Nat) :
    (List.range (n + m)).map (fun i => a + i) =
      (List.range n).map (fun i => a + i) ++ (List.range m).map (fun i => a + n + i) := by
  simp [List.range_add, Nat.add_assoc]

/-- Reads of one size set end to end read a range of addresses in order. -/
theorem readAddrs_consecutive (a n : Nat) (z : ReadSize) :
    readAddrs ((List.range n).map fun j => ⟨a + z.bytes * j, z⟩) =
      (List.range (z.bytes * n)).map (fun i => a + i) := by
  induction n with
  | zero => rfl
  | succ n ih =>
    rw [List.range_succ, List.map_append, readAddrs_append, ih, Nat.mul_succ, map_add_range_add]
    simp

theorem readAddrs_bytes (a n : Nat) :
    readAddrs ((List.range n).map fun i => ⟨a + i, .one⟩) = (List.range n).map (fun i => a + i) := by
  simpa only [ReadSize.bytes, Nat.one_mul] using readAddrs_consecutive a n .one

/-- A plan reads each byte of the input once, in ascending order (R148, 20_memory.md R87). -/
theorem readAddrs_planOf {p : Params} (v : Variant) {src l : Nat} (h : src + l ≤ spaceSize p) :
    readAddrs (planOf p v src l) = (List.range l).map (fun i => src + i) := by
  obtain ⟨rest, hrest⟩ := Nat.exists_eq_add_of_le (words_le v src l)
  rw [planOf_eq h, readAddrs_append, readAddrs_consecutive, Nat.sub_eq_of_eq_add' hrest]
  simp only [← Nat.add_assoc]
  rw [readAddrs_bytes, ← map_add_range_add, ← hrest]

theorem length_planOf (p : Params) (v : Variant) (src l : Nat) :
    (planOf p v src l).length =
      wordCount v src l + (l - (wordSize v).bytes * wordCount v src l) := by
  simp [planOf]

/-- Every read takes at least one byte. -/
theorem length_le_readLen (reads : List ReadReq) : reads.length ≤ readLen reads := by
  induction reads with
  | nil => exact le_rfl
  | cons r rs ih =>
    have := readSize_pos r.size
    rw [List.length_cons, readLen_cons]
    omega

/-- An empty input is not read (20_memory.md R87). -/
theorem planOf_zero (p : Params) (v : Variant) (src : Nat) : planOf p v src 0 = [] := by
  have h := length_le_readLen (planOf p v src 0)
  rw [readLen_planOf] at h
  exact List.length_eq_zero_iff.1 (by omega)

/-! Alignment -/

/-- The reads of a plan: words end to end from SRC, and single bytes. -/
theorem mem_planOf_cases {p : Params} {v : Variant} {src l : Nat} (h : src + l ≤ spaceSize p)
    {r : ReadReq} (hr : r ∈ planOf p v src l) :
    (0 < wordCount v src l ∧ r.size = wordSize v ∧
      r.addr % (wordSize v).bytes = src % (wordSize v).bytes) ∨ r.size = .one := by
  rw [planOf_eq h, List.mem_append, List.mem_map, List.mem_map] at hr
  rcases hr with ⟨j, hj, rfl⟩ | ⟨i, _, rfl⟩
  · exact .inl ⟨Nat.zero_lt_of_lt (List.mem_range.1 hj), rfl, Nat.add_mul_mod_self_left ..⟩
  · exact .inr rfl

/-- The first word read of a plan is at SRC. -/
theorem first_word_mem_planOf {p : Params} {v : Variant} {src l : Nat} (h : src + l ≤ spaceSize p)
    (hw : 0 < wordCount v src l) : (⟨src, wordSize v⟩ : ReadReq) ∈ planOf p v src l := by
  rw [planOf_eq h, List.mem_append, List.mem_map]
  exact .inl ⟨0, List.mem_range.2 hw, rfl⟩

/-- A plan holds a misaligned read exactly when it reads words and SRC is misaligned (R148). -/
theorem misaligned_mem_planOf_iff {p : Params} {v : Variant} {src l : Nat} (h : src + l ≤ spaceSize p) :
    (∃ r ∈ planOf p v src l, r.addr % r.size.bytes ≠ 0) ↔
      0 < wordCount v src l ∧ src % (wordSize v).bytes ≠ 0 := by
  constructor
  · rintro ⟨r, hr, hne⟩
    rcases mem_planOf_cases h hr with ⟨hw, hz, ha⟩ | hz
    · exact ⟨hw, by rwa [hz, ha] at hne⟩
    · rw [hz] at hne
      exact absurd (Nat.mod_one _) hne
  · rintro ⟨hw, hne⟩
    exact ⟨_, first_word_mem_planOf h hw, hne⟩

/-- The AL4 and BYTE commands read words only from an aligned SRC (R146). -/
theorem no_misaligned_words {v : Variant} (hv : v ∈ [.hash1a, .hash2al, .hash2n]) (src l : Nat) :
    ¬(0 < wordCount v src l ∧ src % (wordSize v).bytes ≠ 0) := by
  have hal4 : ¬(0 < (if src % 4 = 0 then l / 4 else 0) ∧ src % 4 ≠ 0) := by
    by_cases h : src % 4 = 0 <;> simp [h]
  simp only [List.mem_cons, List.not_mem_nil, or_false] at hv
  rcases hv with rfl | rfl | rfl
  · exact hal4
  · exact hal4
  · exact fun h => Nat.lt_irrefl 0 h.1

/-- Settles O14. -/
theorem planReadsEachByteOnceInOrder : Obligations.PlanReadsEachByteOnceInOrder := by
  intro p v src l h
  refine ⟨readAddrs_planOf v h, length_planOf p v src l, ?_, fun r hr hz => ?_,
    misaligned_mem_planOf_iff h, fun hv r hr => ?_⟩
  · rintro rfl
    exact planOf_zero p v src
  · rcases mem_planOf_cases h hr with ⟨_, hsize, haddr⟩ | hone
    · exact ⟨hsize, haddr⟩
    · exact absurd hone hz
  · by_contra hne
    exact no_misaligned_words hv src l ((misaligned_mem_planOf_iff h).1 ⟨r, hr, hne⟩)

end Sys2Proof.Machine
end

section
/-! Engine steps (40_operation.md R150 to R158): the read that returns data (O16), the completion (O18), the
bound on a running command's steps (O27), the empty input (O30) and the registers no running command changes
(O48). -/

namespace Sys2Proof.Machine

/-! One read -/

section
variable {r : ReadReq} {rest : List ReadReq} {s : State} (hspace : r.addr + r.size.bytes ≤ spaceSize s.params)
  (halign : s.params.misalignedRd = true ∨ r.addr % r.size.bytes = 0)
include hspace halign

/-- A read the port takes either fails or returns data. -/
theorem readStep_of_port :
    readStep r rest s = if busFails s.params r then .next (raise .bus s) else .next (afterRead r rest s) := by
  refine (if_neg hspace.not_gt).trans (if_neg ?_)
  rcases halign with h | h <;> simp [h]

theorem readStep_of_data (hbus : busFails s.params r = false) :
    readStep r rest s = .next (afterRead r rest s) := by
  rw [readStep_of_port hspace halign, hbus]
  rfl

theorem readStep_of_busError (hbus : busFails s.params r = true) :
    readStep r rest s = .next (raise .bus s) := by
  rw [readStep_of_port hspace halign, hbus]
  rfl

end

theorem getElem?_portRead (p : Params) (m : List Host.Cell) (count : Nat) (r : ReadReq) {i : Nat}
    (hi : i < r.size.bytes) : (portRead p m count r)[i]? = some (portByte p m count (r.addr + i)) := by
  simp [portRead, hi]

/-- Settles O16: the data is what the port answers. -/
theorem readStepAppendsTheBytesRead : Obligations.ReadStepAppendsTheBytesRead := by
  intro s r rest hp hl hspace halign hbus
  refine ⟨portRead s.params s.mem s.readCount r, length_portRead ..,
    fun _ => getElem?_portRead s.params s.mem s.readCount r, ?_⟩
  rw [engineStep_of_plan_cons hp hl, readStep_of_data hspace halign hbus]
  rfl

/-! The completion -/

theorem complete_d32 (d : Word) (s : State) : complete (.d32 d) s = completedWith (digits32 d) s := rfl

theorem complete_d64 (d : DWord) (s : State) : complete (.d64 d) s = completedWith (digits64 d) s := rfl

theorem complete_d128 (o : List Byte) (s : State) :
    complete (.d128 o) s = completedWith (le32 o 0, le32 o 4, le32 o 8, le32 o 12) s := rfl

/-- The completion of the command whose OPC stands in CMD (R155). -/
theorem engineStep_completes {s : State} (hp : s.phase = .run) (hl : s.plan = []) (v : Variant)
    (ho : s.cmdOpc = v.opc) : engineStep s = .next (complete (digestOf v s) s) :=
  engineStep_of_plan_nil hp hl (ho ▸ variantOfOpc_opc v)

/-! The digest function of each command, on the bytes read, LEN and SEED (R154) -/

section
variable (s : State)

@[simp] theorem digestOf_hash1 :
    digestOf .hash1 s = .d32 (murmur1 s.bytes s.len s.seedLo) := rfl
@[simp] theorem digestOf_hash1a :
    digestOf .hash1a s = .d32 (murmur1 s.bytes s.len s.seedLo) := rfl
@[simp] theorem digestOf_hash2 :
    digestOf .hash2 s = .d32 (murmur2 s.bytes s.len s.seedLo) := rfl
@[simp] theorem digestOf_hash2a :
    digestOf .hash2a s = .d32 (murmur2a s.bytes s.len s.seedLo) := rfl
@[simp] theorem digestOf_hash2n :
    digestOf .hash2n s = .d32 (murmur2 s.bytes s.len s.seedLo) := rfl
@[simp] theorem digestOf_hash2al :
    digestOf .hash2al s = .d32 (murmur2 s.bytes s.len s.seedLo) := rfl
@[simp] theorem digestOf_hash64a :
    digestOf .hash64a s = .d64 (murmur64a s.bytes s.len (s.seedHi ++ s.seedLo)) := rfl
@[simp] theorem digestOf_hash64b :
    digestOf .hash64b s = .d64 (murmur64b s.bytes s.len (s.seedHi ++ s.seedLo)) := rfl
@[simp] theorem digestOf_hash3x86_32 :
    digestOf .hash3x86_32 s = .d32 (murmur3x32 s.bytes s.len s.seedLo) := rfl
@[simp] theorem digestOf_hash3x86_128 :
    digestOf .hash3x86_128 s = .d128 (murmur3x86 s.bytes s.len s.seedLo) := rfl
@[simp] theorem digestOf_hash3x64_128 :
    digestOf .hash3x64_128 s = .d128 (murmur3x64 s.bytes s.len s.seedLo) := rfl

end

/-- Settles O18, command by command. -/
theorem completionPlacesTheDigest : Obligations.CompletionPlacesTheDigest := by
  intro s hp hl
  have completes := engineStep_completes hp hl
  refine ⟨?_, ?_, fun h => ?_, fun h => ?_, fun h => ?_, fun h => ?_, ?_, ?_⟩
  · rintro (h | h)
    · rw [completes .hash1 h, digestOf_hash1, complete_d32]
    · rw [completes .hash1a h, digestOf_hash1a, complete_d32]
  · rintro (h | h | h)
    · rw [completes .hash2 h, digestOf_hash2, complete_d32]
    · rw [completes .hash2n h, digestOf_hash2n, complete_d32]
    · rw [completes .hash2al h, digestOf_hash2al, complete_d32]
  · rw [completes .hash2a h, digestOf_hash2a, complete_d32]
  · rw [completes .hash64a h, digestOf_hash64a, complete_d64]
  · rw [completes .hash64b h, digestOf_hash64b, complete_d64]
  · rw [completes .hash3x86_32 h, digestOf_hash3x86_32, complete_d32]
  · rintro h _ rfl
    rw [completes .hash3x86_128 h, digestOf_hash3x86_128, complete_d128]
  · rintro h _ rfl
    rw [completes .hash3x64_128 h, digestOf_hash3x64_128, complete_d128]

/-! Runs of the engine -/

theorem engineRun_succ {s t : State} (n : Nat) (h : engineStep s = .next t) :
    engineRun (n + 1) s = engineRun n t := by
  simp only [engineRun, h]

theorem engineRun_succ_cases {n : Nat} {s u : State} (h : engineRun (n + 1) s = .next u) :
    ∃ t, engineStep s = .next t ∧ engineRun n t = .next u := by
  unfold engineRun at h
  split at h
  · exact ⟨_, ‹_›, h⟩
  · cases h
  · cases h

theorem engineRun_of_idle {s : State} (hp : s.phase = .idle) (n : Nat) : engineRun n s = .next s := by
  induction n with
  | zero => rfl
  | succ n ih => rw [engineRun_succ n (engineStep_of_idle hp), ih]

/-- The reads left lie within the plan, so there are no more of them than input bytes. -/
theorem RunOk.length_plan_le {s : State} (h : RunOk s) : s.plan.length ≤ s.inputLen := by
  obtain ⟨v, _, _, past, hplan, _⟩ := h.progress
  have hlen : readLen (commandPlan v s) = s.inputLen := readLen_planOf ..
  have hle := length_le_readLen s.plan
  rw [hplan, readLen_append] at hlen
  omega

/-- The next read of a running command is one the port takes (20_memory.md R81, R86). -/
theorem RunOk.next_read {s : State} (h : RunOk s) {r : ReadReq} {rest : List ReadReq}
    (hl : s.plan = r :: rest) : r.addr + r.size.bytes ≤ spaceSize s.params ∧
      (s.params.misalignedRd = true ∨ r.addr % r.size.bytes = 0) := by
  obtain ⟨v, _, ha, past, hplan, _⟩ := h.progress
  have hr : r ∈ commandPlan v s := by simp [hplan, hl]
  obtain ⟨_, hend, halign⟩ := mem_planOf ha hr
  exact ⟨hend.trans ha.range, halign⟩

/-- Within `n` engine steps the running command ends, with success or with ERR_BUS and no digest. -/
def EndsWithin (n : Nat) (s : State) : Prop :=
  ∃ k ≤ n, ∃ t, engineRun k s = .next t ∧ t.phase = .idle ∧ t.done = true ∧
    t.cmdOpc = s.cmdOpc ∧ (t.errcode = 0#4 ∨ t.errcode = 6#4 ∧ DigZero t)

/-- A running command takes at most one engine step per read left, and its completion. -/
theorem RunOk.endsWithin {s : State} (h : RunOk s) (hp : s.phase = .run) :
    EndsWithin (s.plan.length + 1) s := by
  induction hl : s.plan generalizing s with
  | nil =>
    obtain ⟨v, hv, _⟩ := h.progress
    exact ⟨1, le_rfl, _, engineRun_succ 0 (engineStep_of_plan_nil hp hl hv), rfl, rfl,
      complete_cmdOpc .., .inl rfl⟩
  | cons r rest ih =>
    obtain ⟨hspace, halign⟩ := h.next_read hl
    have hstep := engineStep_of_plan_cons hp hl
    cases hbus : busFails s.params r with
    | true =>
      rw [readStep_of_busError hspace halign hbus] at hstep
      exact ⟨1, by simp, _, engineRun_succ 0 hstep, rfl, rfl, rfl, .inr ⟨rfl, h.digZero⟩⟩
    | false =>
      rw [readStep_of_data hspace halign hbus] at hstep
      obtain ⟨k, hk, t, hrun, hend⟩ := ih (h.afterRead hl) hp rfl
      exact ⟨k + 1, Nat.succ_le_succ hk, t, (engineRun_succ k hstep).trans hrun, hend⟩

/-- Settles O27. -/
theorem runningCommandCompletesWithinLPlusOneEngineSteps :
    Obligations.RunningCommandCompletesWithinLPlusOneEngineSteps := by
  intro s h hp
  have hrun := h.running hp
  obtain ⟨k, hk, hend⟩ := hrun.endsWithin hp
  exact ⟨k, hk.trans (Nat.succ_le_succ hrun.length_plan_le), hend⟩

/-! The empty input -/

/-- SRC is an address of the read space (30_encoding.md R117, 20_memory.md R81). -/
theorem src_lt_spaceSize (s : State) : s.src < spaceSize s.params := by
  unfold State.src spaceSize
  cases s.params.addrW with
  | w64 => exact (s.srcHi ++ s.srcLo).isLt
  | w32 => exact s.srcLo.isLt

/-- With L = 0 every check but ERR_UNIMPL passes, whatever SRC is. -/
theorem accepts_empty {v : Variant} {s : State} (hlen : s.len = 0#32)
    (hi : implements s.params v = true) : Accepts s.params v s.src s.inputLen := by
  have hl : s.inputLen = 0 := congrArg BitVec.toNat hlen
  have hpos := readSize_pos (wordSize v)
  have hwords := words_le v s.src 0
  have hcount : wordCount v s.src 0 = 0 := by
    rcases Nat.mul_eq_zero.1 (Nat.le_zero.1 hwords) with h | h
    · exact absurd h hpos.ne'
    · exact h
  rw [hl]
  exact ⟨hi, by decide, (src_lt_spaceSize s).le, .inr (.inl hcount)⟩

/-- Settles O30. -/
theorem emptyInputCompletesWithoutReading : Obligations.EmptyInputCompletesWithoutReading := by
  intro i v s hv hp hlen hi
  have hplan : commandPlan v s = [] :=
    (congrArg (planOf s.params v s.src) (congrArg BitVec.toNat hlen)).trans (planOf_zero ..)
  exact ⟨_, _, exec_of_accepts hv hp (accepts_empty hlen hi), rfl, hplan,
    engineStep_completes rfl hplan v rfl, rfl, rfl, rfl, complete_readCount ..⟩

/-! The operands of a running command -/

/-- `t` has the operand registers, CMD and the parameters of `s` (40_operation.md R145). -/
def SameOperands (s t : State) : Prop :=
  t.len = s.len ∧ t.srcLo = s.srcLo ∧ t.srcHi = s.srcHi ∧ t.seedLo = s.seedLo ∧ t.seedHi = s.seedHi ∧
    t.cmdOpc = s.cmdOpc ∧ t.params = s.params

theorem sameOperands_of_engineStep {s t : State} (h : engineStep s = .next t) : SameOperands s t := by
  rcases engineStep_cases h with ⟨_, rfl⟩ | ⟨_, r, rest, _, _, rfl⟩ | ⟨_, r, rest, _, _, rfl⟩ |
    ⟨_, _, v, _, rfl⟩
  · simp [SameOperands]
  · simp [SameOperands]
  · simp [SameOperands, afterRead]
  · simp [SameOperands]

/-- A register write to a running command changes no operand, or it is a reset. -/
theorem Written.sameOperands {r : Reg} {v : Word} {s t : State} (h : Written r v s t)
    (hs : s.phase = .run) (ht : t.phase = .run) : SameOperands s t := by
  cases h with
  | ignored | dropped | enable | status => exact ⟨rfl, rfl, rfl, rfl, rfl, rfl, rfl⟩
  | operands hp | failed hr hp | started hr hp => exact absurd (hp.symm.trans hs) (by decide)
  | reset => exact absurd ht (by simp)

theorem Moved.sameOperands {s t : State} (h : Moved s t) (hs : s.phase = .run) (ht : t.phase = .run) :
    SameOperands s t := by
  cases h with
  | quiet => exact ⟨rfl, rfl, rfl, rfl, rfl, rfl, rfl⟩
  | write r v rest hw h => exact h.sameOperands hs ht
  | hardReset => exact absurd ht (by simp)
  | engine script h => exact sameOperands_of_engineStep (s := { s with script := script }) h

/-- Settles O48. -/
theorem operandsStayFixedWhileACommandRuns : Obligations.OperandsStayFixedWhileACommandRuns := by
  rintro s t hs (⟨hstep, ht⟩ | hstep)
  · exact (moved_of_step hstep).sameOperands hs ht
  · exact sameOperands_of_engineStep hstep

end Sys2Proof.Machine
end

section
/-! The read disciplines (40_operation.md R149): a command that succeeds hashes the bytes memory holds, however
it reads them, and commands of one digest function differ in ERR_ALIGN only (O28). -/

namespace Sys2Proof.Machine

/-! What a whole plan reads -/

/-- `s` once its plan is read from memory. -/
def planRead (s : State) : State :=
  { s with
    plan := []
    bytes := s.bytes ++ (readAddrs s.plan).map (memByte s.mem)
    readCount := s.readCount + s.plan.length }

/-- Where no location has side effects the port returns what memory holds (20_memory.md R85, R89). -/
theorem portRead_of_plain {p : Params} (m : List Host.Cell) (count : Nat) {r : ReadReq}
    (h : ∀ i < r.size.bytes, hasSideEffect p (r.addr + i) = false) :
    portRead p m count r = (List.range r.size.bytes).map (fun i => memByte m (r.addr + i)) := by
  refine List.map_congr_left fun i hi => ?_
  rw [portByte, h i (List.mem_range.1 hi)]
  rfl

/-- Reading the head of the plan first makes no difference. -/
theorem planRead_afterRead {s : State} {r : ReadReq} {rest : List ReadReq} (hl : s.plan = r :: rest)
    (h : ∀ i < r.size.bytes, hasSideEffect s.params (r.addr + i) = false) :
    planRead (afterRead r rest s) = planRead s := by
  simp [planRead, afterRead, portRead_of_plain s.mem s.readCount h, hl, Function.comp_def, Nat.add_comm,
    Nat.add_left_comm]

/-- A run of the whole plan that leaves no error is the completion after every read. -/
theorem eq_complete_of_engineRun {v : Variant} {s u : State} (hv : variantOfOpc s.cmdOpc = some v)
    (hp : s.phase = .run) (hplain : ∀ a ∈ readAddrs s.plan, hasSideEffect s.params a = false)
    (hrun : engineRun (s.plan.length + 1) s = .next u) (hu : u.errcode = 0#4) :
    u = complete (digestOf v (planRead s)) (planRead s) := by
  induction hl : s.plan generalizing s with
  | nil =>
    rw [hl, List.length_nil, engineRun_succ 0 (engineStep_of_plan_nil hp hl hv)] at hrun
    obtain rfl := Host.Outcome.next.inj hrun
    have hread : planRead s = s := by
      cases s
      cases hl
      simp [planRead]
    rw [hread]
  | cons r rest ih =>
    rw [hl] at hplain hrun
    rw [readAddrs_cons] at hplain
    obtain ⟨t, hstep, hrest⟩ := engineRun_succ_cases hrun
    rcases engineStep_cases hstep with ⟨hi, _⟩ | ⟨_, _, _, _, _, rfl⟩ | ⟨_, q, rs, hq, _, rfl⟩ |
      ⟨_, hnil, _⟩
    · exact absurd (hi.symm.trans hp) (by decide)
    · rw [engineRun_of_idle (raise_phase ..)] at hrest
      cases hrest
      exact absurd hu (show ErrCode.bus.code ≠ 0#4 by decide)
    · obtain ⟨rfl, rfl⟩ := List.cons.inj (hl.symm.trans hq)
      have hhead : ∀ i < r.size.bytes, hasSideEffect s.params (r.addr + i) = false := fun i hi =>
        hplain _ (List.mem_append_left _ (List.mem_map_of_mem (List.mem_range.2 hi)))
      rw [← planRead_afterRead hl hhead]
      exact ih hv hp (fun a ha => hplain a (List.mem_append_right _ ha)) hrest rfl
    · exact absurd (hl.symm.trans hnil) (by simp)

/-- The bytes of an accepted command once its plan is read are the input (00_scope.md R15). -/
theorem bytes_planRead_accepted {v : Variant} {s : State} (h : s.src + s.inputLen ≤ spaceSize s.params) :
    (planRead (accepted v s)).bytes = memBytes s.mem s.src s.inputLen := by
  have haddrs : readAddrs (commandPlan v s) = (List.range s.inputLen).map (fun i => s.src + i) :=
    readAddrs_planOf v h
  simp [planRead, haddrs, memBytes, accepted, Function.comp_def]

/-- A command that runs to success over plain memory hashes its input. -/
theorem eq_complete_of_success {i : Instr} {v : Variant} {s t u : State} (hv : variantOfOpc i.opc = some v)
    (hp : s.phase = .idle) (hplain : PlainRange s.params s.src s.inputLen) (hexec : exec i s = .next t)
    (ht : t.phase = .run) (hrun : engineRun (t.plan.length + 1) t = .next u) (hu : u.errcode = 0#4) :
    ∃ w, u = complete (digestOf v w) w ∧ w.bytes = memBytes s.mem s.src s.inputLen ∧ w.len = s.len ∧
      w.seedLo = s.seedLo := by
  obtain ⟨ha, rfl⟩ := accepted_of_exec_runs hv hp hexec ht
  have hplan : ∀ a ∈ readAddrs (accepted v s).plan, hasSideEffect s.params a = false := by
    intro a ha'
    obtain ⟨k, hk, rfl⟩ := List.mem_map.1 (readAddrs_planOf v ha.range ▸ ha')
    exact hplain k (List.mem_range.1 hk)
  exact ⟨_, eq_complete_of_engineRun (variantOfOpc_opc v) rfl hplan hrun hu,
    bytes_planRead_accepted ha.range, rfl, rfl⟩

/-! Commands that share a digest function -/

/-- The pairs of commands with one digest function (41_hash1.md R183, 42_hash2.md R211). -/
abbrev SharesDigest (v v' : Variant) : Prop :=
  (v, v') ∈ [(Variant.hash1, Variant.hash1a), (.hash2, .hash2n), (.hash2, .hash2al), (.hash2n, .hash2al)]

theorem SharesDigest.cases {v v' : Variant} (h : SharesDigest v v') :
    (v = .hash1 ∧ v' = .hash1a) ∨ (v = .hash2 ∧ v' = .hash2n) ∨ (v = .hash2 ∧ v' = .hash2al) ∨
      (v = .hash2n ∧ v' = .hash2al) := by
  simpa using h

theorem SharesDigest.digestOf_eq {v v' : Variant} (h : SharesDigest v v') {s s' : State}
    (hbytes : s.bytes = s'.bytes) (hlen : s.len = s'.len) (hseed : s.seedLo = s'.seedLo) :
    digestOf v s = digestOf v' s' := by
  rcases h.cases with ⟨rfl, rfl⟩ | ⟨rfl, rfl⟩ | ⟨rfl, rfl⟩ | ⟨rfl, rfl⟩ <;>
    simp [hbytes, hlen, hseed]

/-- What is placed in DIG0 to DIG3 depends on the digest alone (40_operation.md R156). -/
theorem complete_digits_eq (d : Digest) (s s' : State) :
    (complete d s).dig0 = (complete d s').dig0 ∧ (complete d s).dig1 = (complete d s').dig1 ∧
    (complete d s).dig2 = (complete d s').dig2 ∧ (complete d s).dig3 = (complete d s').dig3 := by
  cases d <;> exact ⟨rfl, rfl, rfl, rfl⟩

/-! The acceptance checks -/

/-- The checks of an implemented command where the plan needs no misaligned read the port cannot do. -/
theorem acceptError_of_aligned {p : Params} {v : Variant} {src l : Nat} (hi : implements p v = true)
    (ha : ¬(p.misalignedRd = false ∧ 0 < wordCount v src l ∧ src % (wordSize v).bytes ≠ 0)) :
    acceptError p v src l =
      if 2 ^ 31 ≤ l then some .len else if spaceSize p < src + l then some .range else none := by
  have hcheck : ¬((!p.misalignedRd && decide (0 < wordCount v src l) &&
      decide (src % (wordSize v).bytes ≠ 0)) = true) := by
    simpa [and_assoc] using ha
  rw [acceptError, if_neg (by simp [hi]), if_neg hcheck]

/-- The checks of an implemented command where the plan needs such a read. -/
theorem acceptError_of_misaligned {p : Params} {v : Variant} {src l : Nat} (hi : implements p v = true)
    (hm : p.misalignedRd = false) (hw : 0 < wordCount v src l) (hs : src % (wordSize v).bytes ≠ 0) :
    acceptError p v src l =
      if 2 ^ 31 ≤ l then some .len else if spaceSize p < src + l then some .range else some .align := by
  have hcheck : (!p.misalignedRd && decide (0 < wordCount v src l) &&
      decide (src % (wordSize v).bytes ≠ 0)) = true := by
    simp [hm, hw, hs]
  rw [acceptError, if_neg (by simp [hi]), if_pos hcheck]

theorem SharesDigest.aligned_right {v v' : Variant} (h : SharesDigest v v') :
    v' ∈ [.hash1a, .hash2al, .hash2n] := by
  rcases h.cases with ⟨rfl, rfl⟩ | ⟨rfl, rfl⟩ | ⟨rfl, rfl⟩ | ⟨rfl, rfl⟩ <;> decide

/-- The first command of a pair reads words of four bytes, and only where there are as many. -/
theorem SharesDigest.words_left {v v' : Variant} (h : SharesDigest v v') {src l : Nat}
    (hw : 0 < wordCount v src l) : wordSize v = .four ∧ 4 ≤ l := by
  rcases h.cases with ⟨rfl, rfl⟩ | ⟨rfl, rfl⟩ | ⟨rfl, rfl⟩ | ⟨rfl, rfl⟩ <;>
    exact ⟨rfl, by simp only [wordCount] at hw; omega⟩

/-- The acceptance of the two commands of a pair differs only by ERR_ALIGN of the first. -/
theorem SharesDigest.acceptError_eq_or_align {v v' : Variant} (h : SharesDigest v v') {p : Params}
    (src l : Nat) (hi : implements p v = true) (hi' : implements p v' = true) :
    acceptError p v src l = acceptError p v' src l ∨
      (p.misalignedRd = false ∧ 4 ≤ l ∧ src % 4 ≠ 0 ∧ acceptError p v src l = some .align ∧
        acceptError p v' src l = none) := by
  rw [acceptError_of_aligned hi' fun hm => no_misaligned_words h.aligned_right src l hm.2]
  by_cases ha : p.misalignedRd = false ∧ 0 < wordCount v src l ∧ src % (wordSize v).bytes ≠ 0
  · obtain ⟨hm, hw, hs⟩ := ha
    obtain ⟨hfour, hl⟩ := h.words_left hw
    rw [acceptError_of_misaligned hi hm hw hs]
    rw [hfour, ReadSize.bytes] at hs
    split_ifs
    · exact .inl rfl
    · exact .inl rfl
    · exact .inr ⟨hm, hl, hs, rfl, rfl⟩
  · exact .inl (acceptError_of_aligned hi ha)

/-- Settles O28. -/
theorem disciplinesDifferOnlyByErrAlign : Obligations.DisciplinesDifferOnlyByErrAlign := by
  intro v v' hmem
  have h : SharesDigest v v' := hmem
  refine ⟨fun i i' s t t' u u' hv hv' hp hplain hexec hexec' ht ht' hrun hrun' hu hu' => ?_,
    fun p src l => h.acceptError_eq_or_align src l⟩
  obtain ⟨w, rfl, hbytes, hlen, hseed⟩ := eq_complete_of_success hv hp hplain hexec ht hrun hu
  obtain ⟨w', rfl, hbytes', hlen', hseed'⟩ := eq_complete_of_success hv' hp hplain hexec' ht' hrun' hu'
  rw [h.digestOf_eq (hbytes.trans hbytes'.symm) (hlen.trans hlen'.symm) (hseed.trans hseed'.symm)]
  exact complete_digits_eq ..

end Sys2Proof.Machine
end

section
/-! The MurmurHash3 finalization mixes (40_operation.md R165, R166) are bijections (O31, O60): each of their
steps is. -/

namespace Sys2Proof.Machine

/-- A word XORed with itself shifted right. -/
def xorShift {w : Nat} (n : Nat) (x : BitVec w) : BitVec w := x ^^^ (x >>> n)

/-- An xor-shift comes from one word only: the difference of two would be its own shift. -/
theorem xorShift_injective {w n : Nat} (hn : 0 < n) : Function.Injective (xorShift (w := w) n) := by
  intro x y h
  have hshift : (x ^^^ y) >>> n = x ^^^ y :=
    calc (x ^^^ y) >>> n = x ^^^ xorShift n x ^^^ y >>> n := by
          simp [xorShift, BitVec.ushiftRight_xor_distrib]
      _ = x ^^^ xorShift n y ^^^ y >>> n := by rw [h]
      _ = x ^^^ y := by simp [xorShift, BitVec.xor_assoc]
  have hdiv : (x ^^^ y).toNat / 2 ^ n = (x ^^^ y).toNat := by
    rw [← Nat.shiftRight_eq_div_pow, ← BitVec.toNat_ushiftRight, hshift]
  have hzero : (x ^^^ y).toNat = 0 := by
    by_contra hne
    exact (Nat.div_lt_self (Nat.pos_of_ne_zero hne) (Nat.one_lt_two_pow hn.ne')).ne hdiv
  exact BitVec.xor_eq_zero_iff.1 (BitVec.eq_of_toNat_eq hzero)

/-- Multiplying by a constant that has an inverse loses nothing. -/
theorem mul_const_injective {w : Nat} {c d : BitVec w} (h : c * d = 1#w) :
    Function.Injective (· * c) :=
  Function.LeftInverse.injective (g := (· * d)) fun x => by
    change x * c * d = x
    rw [BitVec.mul_assoc, h, BitVec.mul_one]

/-- The shape both mixes have: three xor-shifts, with a multiplication after the first and the second. -/
theorem mix_bijective {w : Nat} {mix : BitVec w → BitVec w} {a b e : Nat} {c d : BitVec w}
    (hmix : ∀ x, mix x = xorShift e (xorShift b (xorShift a x * c) * d)) (ha : 0 < a) (hb : 0 < b)
    (he : 0 < e) {c' d' : BitVec w} (hc : c * c' = 1#w) (hd : d * d' = 1#w) :
    Function.Bijective mix := by
  rw [funext hmix, ← Finite.injective_iff_bijective]
  intro x y h
  have h1 := mul_const_injective hd (xorShift_injective he h)
  have h2 := mul_const_injective hc (xorShift_injective hb h1)
  exact xorShift_injective ha h2

theorem fmix32_eq (h : Word) :
    fmix32 h = xorShift 16 (xorShift 13 (xorShift 16 h * 0x85EBCA6B#32) * 0xC2B2AE35#32) := rfl

theorem fmix64_eq (k : DWord) :
    fmix64 k =
      xorShift 33 (xorShift 33 (xorShift 33 k * 0xFF51AFD7ED558CCD#64) * 0xC4CEB9FE1A85EC53#64) := rfl

/-- Settles O31, with the inverses of the two constants mod 2^32. -/
theorem fmix32IsABijection : Obligations.Fmix32IsABijection :=
  mix_bijective fmix32_eq (by decide) (by decide) (by decide)
    (c' := 0xA5CB9243#32) (d' := 0x7ED1B41D#32) (by decide) (by decide)

/-- Settles O60, with the inverses of the two constants mod 2^64. -/
theorem fmix64IsABijection : Obligations.Fmix64IsABijection :=
  ⟨mix_bijective fmix64_eq (by decide) (by decide) (by decide)
    (c' := 0x4F74430C22A54005#64) (d' := 0x9CB4B2F8129337DB#64) (by decide) (by decide),
    by decide, by decide⟩

end Sys2Proof.Machine
end

section
/-! Whole commands (40_operation.md R158): an accepted command none of whose reads fails runs to the digest of
its input, and HASH1 and HASH1A to MURMUR1 of it (O20). -/

namespace Sys2Proof.Machine

/-- The read space's port gives each of these reads what memory holds (20_memory.md R81, R85, R86, R88, R89). -/
def PortReadsMemory (p : Params) (reads : List ReadReq) : Prop :=
  ∀ r ∈ reads, r.addr + r.size.bytes ≤ spaceSize p ∧ (p.misalignedRd = true ∨ r.addr % r.size.bytes = 0) ∧
    busFails p r = false ∧ ∀ i < r.size.bytes, hasSideEffect p (r.addr + i) = false

/-- A plan of an accepted command is one of such reads if none fails and its range is plain. -/
theorem portReadsMemory_commandPlan {v : Variant} {s : State} (ha : Accepts s.params v s.src s.inputLen)
    (hbus : BusOk s.params (commandPlan v s)) (hplain : PlainRange s.params s.src s.inputLen) :
    PortReadsMemory s.params (commandPlan v s) := by
  intro r hr
  obtain ⟨hsrc, hend, halign⟩ := mem_planOf ha hr
  refine ⟨hend.trans ha.range, halign, hbus r hr, fun i hi => ?_⟩
  have hoff := hplain (r.addr - s.src + i) (by omega)
  rwa [show s.src + (r.addr - s.src + i) = r.addr + i by omega] at hoff

theorem planRead_of_plan_nil {s : State} (hl : s.plan = []) : planRead s = s := by
  cases s
  cases hl
  simp [planRead]

/-- The engine takes one step per read of such a plan, and completes over every byte of it. -/
theorem engineRun_of_portReadsMemory {v : Variant} {s : State} (hv : variantOfOpc s.cmdOpc = some v)
    (hp : s.phase = .run) (hport : PortReadsMemory s.params s.plan) :
    engineRun (s.plan.length + 1) s = .next (complete (digestOf v (planRead s)) (planRead s)) := by
  induction hl : s.plan generalizing s with
  | nil =>
    rw [List.length_nil, engineRun_succ 0 (engineStep_of_plan_nil hp hl hv), planRead_of_plan_nil hl]
    rfl
  | cons r rest ih =>
    rw [hl, PortReadsMemory, List.forall_mem_cons] at hport
    obtain ⟨⟨hspace, halign, hbus, hplain⟩, hrest⟩ := hport
    have hstep := (engineStep_of_plan_cons hp hl).trans (readStep_of_data hspace halign hbus)
    rw [List.length_cons, engineRun_succ _ hstep, ih (s := afterRead r rest s) hv hp hrest rfl,
      planRead_afterRead hl hplain]

/-- A command runs to the digest `dig` gives if that is what its completion places, from the bytes read and
from registers that its reads leave as they are. -/
theorem runsTo_of_complete {i : Instr} {v : Variant} {dig : List Byte → State → Word × Word × Word × Word}
    (hv : variantOfOpc i.opc = some v)
    (hdig : ∀ s, complete (digestOf v s) s = completedWith (dig s.bytes s) s)
    (hregs : ∀ b s, dig b (planRead (accepted v s)) = dig b s) : RunsTo i v dig := by
  intro s hp ha hbus hplain
  refine ⟨accepted v s, exec_of_accepts hv hp ha, rfl, ?_⟩
  have hport := portReadsMemory_commandPlan ha hbus hplain
  have hrun := engineRun_of_portReadsMemory (s := accepted v s) (variantOfOpc_opc v) rfl hport
  rw [hdig, bytes_planRead_accepted ha.range, hregs] at hrun
  exact hrun

/-- Settles O20: the two commands differ in their plan only. -/
theorem hash1CommandsWriteMurmur1 : Obligations.Hash1CommandsWriteMurmur1 := fun _ =>
  ⟨runsTo_of_complete rfl (fun s => by rw [digestOf_hash1, complete_d32]) fun _ _ => rfl,
   runsTo_of_complete rfl (fun s => by rw [digestOf_hash1a, complete_d32]) fun _ _ => rfl⟩

end Sys2Proof.Machine
end

section
/-! The block loops and the tails (41_hash1.md R180, 42_hash2.md R200 to R204, 43_hash3.md R240 to R247): blocks
and their words are taken in ascending order (O33), and tail bytes as little-endian words (O59). -/

namespace Sys2Proof.Machine

/-! Words and their bytes -/

/-- A word is its bytes. -/
theorem eq_of_bytes_eq {w : Nat} (n : Nat) {x y : BitVec w} (hw : w ≤ 8 * n)
    (h : ∀ j < n, x.extractLsb' (8 * j) 8 = y.extractLsb' (8 * j) 8) : x = y := by
  refine BitVec.eq_of_getLsbD_eq fun i hi => ?_
  have hbit := congrArg (fun b => b.getLsbD (i % 8)) (h (i / 8) (by omega))
  simpa [show i % 8 < 8 by omega, Nat.div_add_mod] using hbit

/-- The little-endian bytes of a word are read back as the word (R82). -/
@[simp] theorem le32_le32bytes_append (k : Word) (b : List Byte) : le32 (le32bytes k ++ b) 0 = k := by
  refine eq_of_bytes_eq 4 le_rfl fun j hj => ?_
  rw [extractLsb'_le32 _ _ hj]
  interval_cases j <;> rfl

@[simp] theorem le64_le64bytes_append (k : DWord) (b : List Byte) : le64 (le64bytes k ++ b) 0 = k := by
  refine eq_of_bytes_eq 8 le_rfl fun j hj => ?_
  rw [extractLsb'_le64 _ _ hj]
  interval_cases j <;> rfl

/-- A word read past the first word of the input is a read of the rest. -/
@[simp] theorem le32_le32bytes_append_add (k : Word) (b : List Byte) (i : Nat) :
    le32 (le32bytes k ++ b) (i + 4) = le32 b i := rfl

@[simp] theorem le64_le64bytes_append_add (k : DWord) (b : List Byte) (i : Nat) :
    le64 (le64bytes k ++ b) (i + 8) = le64 b i := rfl

/-! Block loops -/

/-- A loop over `n + 1` blocks takes block 0, then the rest. -/
theorem foldl_range_succ {σ : Type} (f : σ → Nat → σ) (n : Nat) (h : σ) :
    (List.range (n + 1)).foldl f h = (List.range n).foldl (fun h i => f h (i + 1)) (f h 0) := by
  rw [List.range_succ_eq_map, List.foldl_cons, List.foldl_map]

/-- Settles O33: in each loop block 0 is the words put before the input, and block `i + 1` is block `i` of the
rest. -/
theorem blocksAreMixedInAscendingOrder : Obligations.BlocksAreMixedInAscendingOrder := by
  intro b nb
  refine ⟨fun k h => ?_, fun k h => ?_, fun k h => ?_, fun k h => ?_, fun k1 k2 h1 h2 => ?_,
    fun k1 k2 k3 k4 h => ?_, fun k1 k2 h => ?_⟩
  · simp [murmur1Blocks, foldl_range_succ, Nat.mul_succ]
  · simp [murmur2Blocks, foldl_range_succ, Nat.mul_succ]
  · simp [murmur3x32Blocks, foldl_range_succ, Nat.mul_succ]
  · simp [murmur64aBlocks, foldl_range_succ, Nat.mul_succ]
  · simp [murmur64bBlocks, foldl_range_succ, Nat.mul_succ]
  · simp [murmur3x86Blocks, foldl_range_succ, Nat.mul_succ]
  · simp [murmur3x64Blocks, foldl_range_succ, Nat.mul_succ]

/-! Tails -/

/-- A word read is its bytes, each at its place, XORed together: no two overlap. -/
theorem le32_eq_xor (b : List Byte) (i : Nat) :
    le32 b i = byte32 b (i + 3) <<< 24 ^^^ byte32 b (i + 2) <<< 16 ^^^ byte32 b (i + 1) <<< 8 ^^^ byte32 b i := by
  refine eq_of_bytes_eq 4 le_rfl fun j hj => ?_
  rw [extractLsb'_le32 b i hj]
  simp (disch := omega) only [byte32, BitVec.extractLsb'_xor, extractLsb'_setWidth,
    extractLsb'_setWidth_shiftLeft]
  interval_cases j <;> simp

theorem le64_eq_xor (b : List Byte) (i : Nat) :
    le64 b i = byte64 b (i + 7) <<< 56 ^^^ byte64 b (i + 6) <<< 48 ^^^ byte64 b (i + 5) <<< 40 ^^^
      byte64 b (i + 4) <<< 32 ^^^ byte64 b (i + 3) <<< 24 ^^^ byte64 b (i + 2) <<< 16 ^^^
      byte64 b (i + 1) <<< 8 ^^^ byte64 b i := by
  refine eq_of_bytes_eq 8 le_rfl fun j hj => ?_
  rw [extractLsb'_le64 b i hj]
  simp (disch := omega) only [byte64, BitVec.extractLsb'_xor, extractLsb'_setWidth,
    extractLsb'_setWidth_shiftLeft]
  interval_cases j <;> simp

/-- Words with no byte in common are added as they are ORed. -/
theorem add_eq_or_of_bytes {x y : Word}
    (h : ∀ j < 4, x.extractLsb' (8 * j) 8 = 0#8 ∨ y.extractLsb' (8 * j) 8 = 0#8) : x + y = x ||| y := by
  refine BitVec.add_eq_or_of_and_eq_zero x y (eq_of_bytes_eq 4 le_rfl fun j hj => ?_)
  rcases h j hj with hx | hy
  · simp [BitVec.extractLsb'_and, hx]
  · simp [BitVec.extractLsb'_and, hy]

/-- Its bytes do not overlap, so the word is their sum as well. -/
theorem le32_eq_add (b : List Byte) (i : Nat) :
    le32 b i = byte32 b (i + 3) <<< 24 + (byte32 b (i + 2) <<< 16 + (byte32 b (i + 1) <<< 8 + byte32 b i)) := by
  rw [le32, BitVec.or_comm _ (byte32 b (i + 3) <<< 24), BitVec.or_comm _ (byte32 b (i + 2) <<< 16),
    BitVec.or_comm _ (byte32 b (i + 1) <<< 8), ← add_eq_or_of_bytes, ← add_eq_or_of_bytes,
    ← add_eq_or_of_bytes]
  all_goals
    intro j hj
    simp (disch := omega) only [byte32, BitVec.extractLsb'_or, extractLsb'_setWidth,
      extractLsb'_setWidth_shiftLeft]
    interval_cases j <;> simp

/-- The tail has no byte past its length (R161, R162). -/
theorem byteAt_tailBytes (b : List Byte) (o t q : Nat) :
    byteAt (tailBytes b o t) q = if q < t then byteAt b (o + q) else 0#8 := by
  by_cases h : q < t <;> simp [byteAt, tailBytes, h]

theorem byte32_tailBytes (b : List Byte) (o t q : Nat) :
    byte32 (tailBytes b o t) q = if q < t then byte32 b (o + q) else 0#32 := by
  rw [byte32, byteAt_tailBytes]
  split <;> rfl

theorem byte64_tailBytes (b : List Byte) (o t q : Nat) :
    byte64 (tailBytes b o t) q = if q < t then byte64 b (o + q) else 0#64 := by
  rw [byte64, byteAt_tailBytes]
  split <;> rfl

/-- A byte that is taken only if the tail reaches it is taken, or zero. -/
theorem ite_xor_eq {w : Nat} (c : Prop) [Decidable c] (h x : BitVec w) :
    (if c then h ^^^ x else h) = h ^^^ if c then x else 0#w := by
  split <;> simp

theorem ite_add_eq {w : Nat} (c : Prop) [Decidable c] (h x : BitVec w) :
    (if c then h + x else h) = h + if c then x else 0#w := by
  split <;> simp

theorem ite_shiftLeft {w : Nat} (c : Prop) [Decidable c] (x : BitVec w) (n : Nat) :
    (if c then x else 0#w) <<< n = if c then x <<< n else 0#w := by
  split <;> simp

/-- The XORs of a tail shorter than a word XOR its word. -/
theorem xorTail_eq (b : List Byte) (o : Nat) {t : Nat} (ht : t < 4) (h : Word) :
    xorTail b o t h = h ^^^ le32 (tailBytes b o t) 0 := by
  have hend : ¬3 < t := by omega
  simp only [xorTail, ite_xor_eq, Nat.add_one_le_iff]
  simp [le32_eq_xor, byte32_tailBytes, ite_shiftLeft, hend, BitVec.xor_assoc]

/-- MURMUR1 adds the tail bytes where the others XOR them, and mixes them as a block (R180). -/
theorem murmur1Tail_eq (b : List Byte) (o : Nat) {t : Nat} (ht : t < 4) (h : Word) :
    murmur1Tail b o t h = if t = 0 then h else murmur1Block h (le32 (tailBytes b o t) 0) := by
  rcases Nat.eq_zero_or_pos t with rfl | hpos
  · simp [murmur1Tail]
  have hend : ¬3 < t := by omega
  simp only [murmur1Tail, murmur1Block, ite_add_eq, Nat.add_one_le_iff, hpos, hpos.ne', if_true, if_false]
  simp [le32_eq_add, byte32_tailBytes, ite_shiftLeft, hpos, hend, BitVec.add_assoc]

theorem murmur2Tail_eq (b : List Byte) (o : Nat) {t : Nat} (ht : t < 4) (h : Word) :
    murmur2Tail b o t h = if t = 0 then h else (h ^^^ le32 (tailBytes b o t) 0) * 0x5BD1E995#32 := by
  rcases Nat.eq_zero_or_pos t with rfl | hpos
  · simp [murmur2Tail, xorTail]
  rw [murmur2Tail, xorTail_eq b o ht h, if_pos (Nat.succ_le_of_lt hpos), if_neg hpos.ne']

theorem murmur3x32Tail_eq (b : List Byte) (o : Nat) {t : Nat} (ht : t < 4) (h : Word) :
    murmur3x32Tail b o t h = if t = 0 then h else h ^^^ kmix32 (le32 (tailBytes b o t) 0) := by
  rcases Nat.eq_zero_or_pos t with rfl | hpos
  · simp [murmur3x32Tail]
  have hword := xorTail_eq b o ht 0#32
  rw [BitVec.zero_xor, xorTail, if_pos (Nat.succ_le_of_lt hpos)] at hword
  rw [murmur3x32Tail, if_pos (Nat.succ_le_of_lt hpos), if_neg hpos.ne', hword]

theorem murmur64aTail_eq (b : List Byte) (o : Nat) {t : Nat} (ht : t < 8) (h : DWord) :
    murmur64aTail b o t h =
      if t = 0 then h else (h ^^^ le64 (tailBytes b o t) 0) * 0xC6A4A7935BD1E995#64 := by
  rcases Nat.eq_zero_or_pos t with rfl | hpos
  · simp [murmur64aTail]
  have hend : ¬7 < t := by omega
  simp only [murmur64aTail, ite_xor_eq, Nat.add_one_le_iff, hpos, hpos.ne', if_true, if_false]
  simp [le64_eq_xor, byte64_tailBytes, ite_shiftLeft, hpos, hend, BitVec.xor_assoc]

/-- Each lane takes its own four bytes, if the tail reaches them (R243, R247). -/
theorem murmur3x86Tail_eq (b : List Byte) (o : Nat) {t : Nat} (ht : t < 16) (h : Lanes32) :
    murmur3x86Tail b o t h =
      ⟨if 0 < t then h.h1 ^^^ kmix1 (le32 (tailBytes b o t) 0) else h.h1,
       if 4 < t then h.h2 ^^^ kmix2 (le32 (tailBytes b o t) 4) else h.h2,
       if 8 < t then h.h3 ^^^ kmix3 (le32 (tailBytes b o t) 8) else h.h3,
       if 12 < t then h.h4 ^^^ kmix4 (le32 (tailBytes b o t) 12) else h.h4⟩ := by
  have hend : ¬15 < t := by omega
  simp [murmur3x86Tail, le32_eq_xor, byte32_tailBytes, ite_xor_eq, ite_shiftLeft, Nat.add_one_le_iff, hend]

theorem murmur3x64Tail_eq (b : List Byte) (o : Nat) {t : Nat} (ht : t < 16) (h : Lanes64) :
    murmur3x64Tail b o t h =
      ⟨if 0 < t then h.h1 ^^^ kmixA (le64 (tailBytes b o t) 0) else h.h1,
       if 8 < t then h.h2 ^^^ kmixB (le64 (tailBytes b o t) 8) else h.h2⟩ := by
  have hend : ¬15 < t := by omega
  simp [murmur3x64Tail, tailWord64, le64_eq_xor, byte64_tailBytes, ite_xor_eq, ite_shiftLeft,
    Nat.add_one_le_iff, hend]

/-- MURMUR64B takes a whole word of its last L mod 8 bytes first; the L mod 4 bytes left are its tail (R204). -/
theorem murmur64b_eq (b : List Byte) (l : Word) (seed : DWord) {h : Word × Word}
    (hh : h = murmur64bBlocks b (l.toNat / 8) (seed.extractLsb' 0 32 ^^^ l, seed.extractLsb' 32 32)) :
    murmur64b b l seed =
      murmur64bFinal (if 4 ≤ l.toNat % 8 then mmix h.1 (le32 b (8 * (l.toNat / 8))) else h.1)
        (murmur2Tail b (4 * (l.toNat / 4)) (l.toNat % 4) h.2) := by
  have ho : (if 4 ≤ l.toNat % 8 then 8 * (l.toNat / 8) + 4 else 8 * (l.toNat / 8)) = 4 * (l.toNat / 4) := by
    split <;> omega
  have hn : (if 4 ≤ l.toNat % 8 then l.toNat % 8 - 4 else l.toNat % 8) = l.toNat % 4 := by
    split <;> omega
  rw [murmur64b, ← hh, ho, hn]

/-- Settles O59, function by function. -/
theorem tailBytesAreMixedAsLittleEndianWords : Obligations.TailBytesAreMixedAsLittleEndianWords :=
  ⟨fun b o _ h ht => ⟨murmur1Tail_eq b o ht h, murmur2Tail_eq b o ht h,
      (xorTail_eq b o ht 0#32).trans (BitVec.zero_xor ..), murmur3x32Tail_eq b o ht h⟩,
    fun b o _ h ht => murmur64aTail_eq b o ht h, fun b o _ h ht => murmur3x86Tail_eq b o ht h,
    fun b o _ h ht => murmur3x64Tail_eq b o ht h, fun b l seed _ => murmur64b_eq b l seed⟩

end Sys2Proof.Machine
end

section
/-! The commands of 42_hash2.md run to their digests (O21, O22, O23): 32-bit ones with the seed SEED_LO, 64-bit
ones with the seed SEED_HI:SEED_LO (30_encoding.md R116). -/

namespace Sys2Proof.Machine

/-- A command whose digest is the word `hash` of the bytes, LEN and SEED_LO runs to that word in DIG0. -/
theorem runsTo_digits32 {i : Instr} {v : Variant} {hash : List Byte → Word → Word → Word}
    (hv : variantOfOpc i.opc = some v)
    (hdigest : ∀ s, digestOf v s = .d32 (hash s.bytes s.len s.seedLo)) :
    RunsTo i v (fun b s => digits32 (hash b s.len s.seedLo)) :=
  runsTo_of_complete hv (fun s => by rw [hdigest, complete_d32]) fun _ _ => rfl

/-- A command whose digest is the double word `hash` of the bytes, LEN and SEED_HI:SEED_LO runs to that double
word in DIG1:DIG0. -/
theorem runsTo_digits64 {i : Instr} {v : Variant} {hash : List Byte → Word → DWord → DWord}
    (hv : variantOfOpc i.opc = some v)
    (hdigest : ∀ s, digestOf v s = .d64 (hash s.bytes s.len (s.seedHi ++ s.seedLo))) :
    RunsTo i v (fun b s => digits64 (hash b s.len (s.seedHi ++ s.seedLo))) :=
  runsTo_of_complete hv (fun s => by rw [hdigest, complete_d64]) fun _ _ => rfl

/-- Settles O21: the three commands differ in their plan only. -/
theorem hash2CommandsWriteMurmur2 : Obligations.Hash2CommandsWriteMurmur2 := fun _ =>
  ⟨runsTo_digits32 rfl digestOf_hash2, runsTo_digits32 rfl digestOf_hash2n,
   runsTo_digits32 rfl digestOf_hash2al⟩

/-- Settles O22. -/
theorem hash2ACommandWritesMurmur2A : Obligations.Hash2ACommandWritesMurmur2A := fun _ =>
  runsTo_digits32 rfl digestOf_hash2a

/-- Settles O23: each command's seed is SEED_HI:SEED_LO, and its digest is placed in DIG1:DIG0. -/
theorem hash64CommandsWriteTheirDigest : Obligations.Hash64CommandsWriteTheirDigest := fun _ =>
  ⟨runsTo_digits64 rfl digestOf_hash64a, runsTo_digits64 rfl digestOf_hash64b⟩

end Sys2Proof.Machine
end

section
/-! The commands of 43_hash3.md run to their digests (O24, O25), the lanes of a short input (O32), and the empty
input with seed 0 (O34). -/

namespace Sys2Proof.Machine

/-- Settles O24. -/
theorem hash3X86_32CommandWritesItsDigest : Obligations.Hash3X86_32CommandWritesItsDigest := fun _ =>
  runsTo_digits32 rfl digestOf_hash3x86_32

/-! The 128-bit digests -/

@[simp] theorem le32_le32bytes (k : Word) : le32 (le32bytes k) 0 = k := le32_le32bytes_append k []

/-- The four words of a blob are placed in DIG0 to DIG3 as they are (R156). -/
theorem complete_words (w0 w1 w2 w3 : Word) (s : State) :
    complete (.d128 (le32bytes w0 ++ le32bytes w1 ++ le32bytes w2 ++ le32bytes w3)) s =
      completedWith (w0, w1, w2, w3) s := by
  simp [complete_d128]

/-- Bits of a field are bits of the word. -/
theorem extractLsb'_field {w m i n : Nat} (x : BitVec w) (a : Nat) (h : i + n ≤ m) :
    (x.extractLsb' a m).extractLsb' i n = x.extractLsb' (a + i) n := by
  ext k hk
  simp [show i + k < m by omega, Nat.add_assoc]

/-- A double word is serialized low half first (R245). -/
theorem le64bytes_eq_halves (d : DWord) :
    le64bytes d = le32bytes (d.extractLsb' 0 32) ++ le32bytes (d.extractLsb' 32 32) := by
  simp [le64bytes, le32bytes, extractLsb'_field]

/-- Settles O25: either blob is four words, the lanes of x86_128 or the halves of those of x64_128. -/
theorem hash3Commands128WriteTheirLanes : Obligations.Hash3Commands128WriteTheirLanes := fun _ => by
  refine ⟨runsTo_of_complete rfl (fun s => ?_) fun _ _ => rfl,
    runsTo_of_complete rfl (fun s => ?_) fun _ _ => rfl⟩
  · rw [digestOf_hash3x86_128, murmur3x86, complete_words]
  · rw [digestOf_hash3x64_128, murmur3x64, le64bytes_eq_halves, le64bytes_eq_halves, ← List.append_assoc,
      complete_words]

/-! Short and empty inputs -/

/-- FINALIZE does the same to lanes 2 to 4 (R243), so lanes that enter it equal leave it equal. -/
theorem murmur3x86Final_lanes_eq (l : Word) {h : Lanes32} (h23 : h.h2 = h.h3) (h34 : h.h3 = h.h4) :
    (murmur3x86Final l h).h2 = (murmur3x86Final l h).h3 ∧
      (murmur3x86Final l h).h3 = (murmur3x86Final l h).h4 := by
  simp [murmur3x86Final, crossAdd32, h23, h34]

/-- Settles O32: fewer than 5 bytes are a tail that reaches lane 1 only, so lanes 2 to 4 enter FINALIZE as the
seed. -/
theorem shortInputLeavesLanesTwoToFourEqual : Obligations.ShortInputLeavesLanesTwoToFourEqual := by
  intro b l seed hl
  have hblocks : l.toNat / 16 = 0 := by omega
  have htail : l.toNat % 16 = l.toNat := by omega
  rw [murmur3x86Lanes, hblocks, htail, murmur3x86Tail_eq _ _ (by omega), if_neg (show ¬4 < l.toNat by omega),
    if_neg (show ¬8 < l.toNat by omega), if_neg (show ¬12 < l.toNat by omega)]
  exact murmur3x86Final_lanes_eq l rfl rfl

/-- Settles O34, by evaluating the three functions. -/
theorem emptyInputSeedZeroHashesToZero : Obligations.EmptyInputSeedZeroHashesToZero :=
  ⟨by decide, by decide⟩

end Sys2Proof.Machine
end

section
/-! Exceptions (60_exceptions.md): the acceptance checks that end a command (O7, O8, O9), the failing read (O17),
the codes a step writes (O54), the rises of irq (O55), a core without traps (O58) and the idle engine (O19). -/

namespace Sys2Proof.Machine

/-! The commands that acceptance ends (R283 to R287, R290) -/

/-- An idle core ends a command whose acceptance fails in the step that accepts it (40_operation.md R143). -/
theorem submit_of_check {s : State} (hp : s.phase = .idle) (o : BitVec 4) (e : ErrCode)
    (reads : List ReadReq) : submit o (some e) reads s = endedAtAcceptance o e.code s := by
  rw [submit, not_busy_iff.2 hp]
  rfl

/-- A variant command ends with the code of its first failing check. -/
theorem exec_of_check {i : Instr} {v : Variant} {s : State} {e : ErrCode}
    (hv : variantOfOpc i.opc = some v) (hp : s.phase = .idle)
    (he : acceptError s.params v s.src s.inputLen = some e) :
    exec i s = .next (endedAtAcceptance i.opc e.code s) := by
  rw [exec_of_variant hv, submitVariant, he, submit_of_check hp, opc_of_variantOfOpc hv]

/-- Settles O7: a reserved OPC selects no variant, so its acceptance fails with ERR_OPC. -/
theorem reservedCommandEndsWithErrOpc : Obligations.ReservedCommandEndsWithErrOpc := by
  intro i s ho hp
  have hv : variantOfOpc i.opc = none := by
    rcases ho with h | h | h | h | h <;> rw [h] <;> decide
  rw [exec_of_reserved hv, submitReserved, submit_of_check hp]
  rfl

section
variable {p : Params} {v : Variant} {src l : Nat}

/-- ERR_UNIMPL comes before every other check of a variant (R284). -/
theorem acceptError_of_unimplemented (hi : implements p v = false) :
    acceptError p v src l = some .unimpl :=
  if_pos (by simp [hi])

/-- ERR_LEN comes next (R285). -/
theorem acceptError_of_len (hi : implements p v = true) (hl : 2 ^ 31 ≤ l) :
    acceptError p v src l = some .len := by
  rw [acceptError, if_neg (by simp [hi]), if_pos hl]

/-- ERR_RANGE comes before ERR_ALIGN (R286). -/
theorem acceptError_of_range (hi : implements p v = true) (hl : l < 2 ^ 31) (hr : spaceSize p < src + l) :
    acceptError p v src l = some .range := by
  rw [acceptError, if_neg (by simp [hi]), if_neg hl.not_ge, if_pos hr]

/-- No ERR_ALIGN where the plan needs no misaligned read the port cannot do (R287). -/
theorem acceptError_ne_align
    (ha : ¬(p.misalignedRd = false ∧ 0 < wordCount v src l ∧ src % (wordSize v).bytes ≠ 0)) :
    acceptError p v src l ≠ some .align := by
  cases hi : implements p v with
  | false => rw [acceptError_of_unimplemented hi]; decide
  | true =>
    rw [acceptError_of_aligned hi ha]
    split_ifs <;> decide

end

/-- Settles O8, check by check in the order of R290. -/
theorem firstFailingCheckEndsTheCommand : Obligations.FirstFailingCheckEndsTheCommand := by
  intro i v s hv hp
  refine ⟨fun hi => ?_, fun hi hl => ?_, fun hi hl hr => ?_, fun hi hl hr hm hw hs => ?_⟩
  · exact exec_of_check hv hp (acceptError_of_unimplemented hi)
  · exact exec_of_check hv hp (acceptError_of_len hi hl)
  · exact exec_of_check hv hp (acceptError_of_range hi hl hr)
  · refine exec_of_check hv hp (e := .align) ?_
    rw [acceptError_of_misaligned hi hm hw hs, if_neg hl.not_ge, if_neg hr.not_gt]

/-- Settles O9: such a command is accepted, or its failing check is not the alignment check. -/
theorem alignedCommandsNeverEndWithErrAlign : Obligations.AlignedCommandsNeverEndWithErrAlign := by
  intro i v s t hv hp haligned h
  have hne : acceptError s.params v s.src s.inputLen ≠ some .align := by
    refine acceptError_ne_align fun ⟨hm, hword⟩ => ?_
    rcases haligned with hmem | hport
    · exact no_misaligned_words hmem _ _ hword
    · exact absurd (hm.symm.trans hport) (by decide)
  cases he : acceptError s.params v s.src s.inputLen with
  | none =>
    rw [exec_of_accepts hv hp (acceptError_none_iff.1 he)] at h
    cases h
    exact (by decide : (0#4 : BitVec 4) ≠ 5#4)
  | some e =>
    rw [exec_of_check hv hp he] at h
    cases h
    show e.code ≠ 5#4
    cases e
    case align => exact absurd he hne
    all_goals decide

/-! Failing reads and the codes of ERRCODE (R288, R289) -/

/-- Settles O17. -/
theorem failedReadEndsWithErrBus : Obligations.FailedReadEndsWithErrBus := by
  intro s r rest hp hl hspace halign hbus
  rw [engineStep_of_plan_cons hp hl, readStep_of_busError hspace halign hbus]
  rfl

/-- What a step does to the core leaves ERRCODE alone or writes one of the seven codes of R281. -/
theorem Effect.errcode_eq_or_code {s t : State} (h : Effect s t) :
    t.errcode = s.errcode ∨ ∃ e : ErrCode, t.errcode = e.code := by
  cases h with
  | failed hp o e => exact .inr ⟨e, rfl⟩
  | busError => exact .inr ⟨.bus, rfl⟩
  | reset | started | completed => exact .inr ⟨.ok, rfl⟩
  | _ => exact .inl rfl

/-- Settles O54. -/
theorem noStepWritesAReservedErrorCode : Obligations.NoStepWritesAReservedErrorCode := by
  intro s t hstep
  obtain ⟨script, resp, _, heffect⟩ := step_cases hstep
  rcases heffect.errcode_eq_or_code with h | ⟨e, h⟩
  · exact .inl h
  · exact .inr (h ▸ errCode_code_le_six e)

/-! The irq output (R295, R296) -/

theorem engineStep_ie {s t : State} (h : engineStep s = .next t) : t.ie = s.ie := by
  rcases engineStep_cases h with ⟨_, rfl⟩ | ⟨_, r, rest, _, _, rfl⟩ | ⟨_, r, rest, _, _, rfl⟩ |
    ⟨_, _, v, _, rfl⟩
  · rfl
  · rfl
  · rfl
  · exact complete_ie ..

/-- What sets IE (10_state.md R43, R44); the same step leaves DONE alone. -/
theorem Moved.cause_of_ie_rises {s t : State} (h : Moved s t) (hs : s.ie = false) (ht : t.ie = true) :
    t.done = s.done ∧ ∃ v rest, Writes s 0x0C v rest ∧ v.getLsbD 0 = true ∧ v.getLsbD 1 = false := by
  cases h with
  | quiet => simp_all
  | engine script he => simp_all [engineStep_ie he]
  | hardReset rest hr => simp_all
  | write r v rest hw h =>
    cases h with
    | enable hr hv => subst hr; exact ⟨rfl, v, rest, hw, ht, hv⟩
    | _ => simp_all [accepted]

/-- Settles O55: where irq rises, DONE rises while IE is 1 or IE rises while DONE is 1. -/
theorem irqRisesOnlyByCompletionOrEnable : Obligations.IrqRisesOnlyByCompletionOrEnable := by
  refine ⟨fun s => rfl, rfl, fun s t hstep hs ht => ?_⟩
  have hmoved := moved_of_step hstep
  obtain ⟨htie, htdone⟩ : t.ie = true ∧ t.done = true := by simpa [irq] using ht
  cases hie : s.ie with
  | true =>
    have hsdone : s.done = false := by simpa [irq, hie] using hs
    obtain ⟨hidle, _, _, hcause⟩ := hmoved.cause_of_done_rises hsdone htdone
    exact .inl ⟨rfl, hsdone, htdone, hidle, hcause⟩
  | false =>
    obtain ⟨hdone, hcause⟩ := hmoved.cause_of_ie_rises hie htie
    exact .inr ⟨rfl, hdone ▸ htdone, hcause⟩

/-! No trap (R280): in a state of the invariant whatever moves next has a next state -/

theorem writeReg_total (r : Reg) (v : Word) (s : State) : ∃ t, writeReg r v s = .next t := by
  cases r
  case cmd => exact exec_total (decodeWord v) s
  case srcHi =>
    simp only [writeReg]
    split <;> exact ⟨_, rfl⟩
  all_goals exact ⟨_, rfl⟩

theorem hostRead_total (addr size : Nat) (s : State) : ∃ t, hostRead addr size s = .next t := by
  unfold hostRead
  split
  · exact ⟨_, rfl⟩
  · split_ifs
    · split <;> exact ⟨_, rfl⟩
    · exact ⟨_, rfl⟩

theorem hostWrite_total (addr size : Nat) (v : Word) (s : State) :
    ∃ t, hostWrite addr size v s = .next t := by
  unfold hostWrite
  split
  · exact ⟨_, rfl⟩
  · split_ifs
    · split
      · exact writeReg_total ..
      · exact ⟨_, rfl⟩
    · exact ⟨_, rfl⟩

/-- The engine of a running command reads what the port takes, or completes a command that has a digest
(20_memory.md R86, R87). -/
theorem RunOk.engineStep_total {s : State} (h : RunOk s) (hp : s.phase = .run) :
    ∃ t, engineStep s = .next t := by
  cases hl : s.plan with
  | nil =>
    obtain ⟨v, hv, _⟩ := h.progress
    exact ⟨_, engineStep_of_plan_nil hp hl hv⟩
  | cons r rest =>
    obtain ⟨hspace, halign⟩ := h.next_read hl
    rw [engineStep_of_plan_cons hp hl, readStep_of_port hspace halign]
    split_ifs <;> exact ⟨_, rfl⟩

theorem CoreInv.engineStep_total {s : State} (h : CoreInv s) : ∃ t, engineStep s = .next t := by
  rcases idle_or_run s with hp | hp
  · exact ⟨s, engineStep_of_idle hp⟩
  · exact (h.running hp).engineStep_total hp

/-- Settles O58: the one step that could leave the read space is an agent's write, which the invariant keeps
inside it. -/
theorem invariantStatesAreSafe : Obligations.InvariantStatesAreSafe := by
  intro s h
  unfold Safe
  cases hs : s.script with
  | nil => rw [step_of_empty_script hs]; exact h.engineStep_total
  | cons e rest =>
    cases e with
    | memWrite a data => exact ⟨_, step_of_memWrite hs (h.scriptInSpace a data (by simp [hs]))⟩
    | engine =>
      rw [step_of_script hs]
      exact (h.advance s.resp fun a data hm => by simp [hs, hm]).engineStep_total
    | hostRead addr size => rw [step_of_script hs]; exact hostRead_total ..
    | hostWrite addr size v => rw [step_of_script hs]; exact hostWrite_total ..
    | waitDone =>
      simp only [step_of_script hs, runEvent, hostWaitDone]
      split_ifs <;> exact ⟨_, rfl⟩
    | waitIrq =>
      simp only [step_of_script hs, runEvent, hostWaitIrq]
      split_ifs <;> exact ⟨_, rfl⟩
    | hardReset => rw [step_of_script hs]; exact ⟨_, rfl⟩

/-! The idle engine (R303) -/

/-- Settles O19. -/
theorem idleEngineTakesNoStep : Obligations.IdleEngineTakesNoStep := fun _ hp =>
  ⟨engineStep_of_idle hp, fun hs => (step_of_empty_script hs).trans (engineStep_of_idle hp)⟩

end Sys2Proof.Machine
end

section
/-! Reset and hazards (70_reset_and_hazards.md): both resets (O46), what the host reads after one (O47), the
invariant there (O56), and the bound on a written command's steps on the machine itself (O26). -/

namespace Sys2Proof.Machine

/-! Reset (R320 to R322) -/

/-- The reset operation writes the whole table of R321. -/
theorem resetCore_eq_afterReset (s : State) : resetCore s = afterReset s := rfl

/-- Settles O46: both resets are the one reset operation, and SRST wins over IE (10_state.md R44). -/
theorem softAndHardResetGiveTheResetState : Obligations.SoftAndHardResetGiveTheResetState := by
  refine fun s v rest => ⟨fun h hv => ?_, fun h => ?_⟩
  · rw [step_of_writes (r := .ctrl) h, writeReg, writeCtrl_reset _ hv, resetCore_eq_afterReset]
    rfl
  · rw [step_of_script h, runEvent, resetCore_eq_afterReset]
    rfl

/-- Settles O47, by reading each register of the reset state. -/
theorem resetLeavesTheValuesOfTheTable : Obligations.ResetLeavesTheValuesOfTheTable :=
  ⟨rfl, rfl, by decide, by decide, rfl, rfl, rfl, rfl⟩

/-- Settles O56: memory and script are empty, the engine is idle and empty, and there is no error. -/
theorem invariantHoldsAtReset : Obligations.InvariantHoldsAtReset where
  memCanonical := rfl
  memInSpace _ hc := absurd hc List.not_mem_nil
  idleEmpty _ := ⟨rfl, rfl⟩
  running hp := absurd hp (by decide)
  errcodeLegal := Nat.zero_le 6
  errorDigZero he := absurd rfl he
  srcHiReserved _ := rfl
  scriptInSpace _ _ hm := absurd hm List.not_mem_nil

/-! Progress (R337) -/

/-- A command whose checks passed starts with no read done (40_operation.md R142 to R144). -/
theorem runOk_accepted {v : Variant} {s : State} (ha : Accepts s.params v s.src s.inputLen) :
    RunOk (accepted v s) :=
  ⟨rfl, rfl, ⟨rfl, rfl, rfl, rfl⟩, v, variantOfOpc_opc v, ha, [], rfl, rfl⟩

/-- No engine step touches what the agents do next. -/
theorem engineStep_script {s t : State} (h : engineStep s = .next t) : t.script = s.script := by
  rcases engineStep_cases h with ⟨_, rfl⟩ | ⟨_, r, rest, _, _, rfl⟩ | ⟨_, r, rest, _, _, rfl⟩ |
    ⟨_, _, v, _, rfl⟩
  · rfl
  · rfl
  · rfl
  · exact complete_script ..

/-- With nothing pending the machine's run is the engine's (40_operation.md R158); it leaves the script empty
and memory as it was. -/
theorem core_run_of_engineRun {n : Nat} {s t : State} (hs : s.script = []) (h : engineRun n s = .next t) :
    Host.Core.run Sys2Proof.core n s = .next t ∧ t.script = [] ∧ t.mem = s.mem := by
  induction n generalizing s with
  | zero => cases h; exact ⟨rfl, hs, rfl⟩
  | succ n ih =>
    obtain ⟨u, hstep, hrest⟩ := engineRun_succ_cases h
    obtain ⟨hrun, hscript, hmem⟩ := ih ((engineStep_script hstep).trans hs) hrest
    have hfirst : step s = .next u := (step_of_empty_script hs).trans hstep
    exact ⟨(core_run_succ Sys2Proof.core n hfirst).trans hrun, hscript, hmem.trans (engineStep_mem hstep)⟩

/-- Where no planned read fails, a command that has ended within its bound has taken every read and its
completion: only a failing read ends it earlier, or with an error. -/
theorem engineRun_exact_of_busOk {n : Nat} {s t : State} (hp : s.phase = .run)
    (hbus : BusOk s.params s.plan) (hrun : engineRun n s = .next t) (hn : n ≤ s.plan.length + 1)
    (ht : t.phase = .idle) : n = s.plan.length + 1 ∧ t.errcode = 0#4 := by
  induction n generalizing s with
  | zero => cases hrun; exact absurd (hp.symm.trans ht) (by decide)
  | succ n ih =>
    obtain ⟨u, hstep, hrest⟩ := engineRun_succ_cases hrun
    rcases engineStep_cases hstep with ⟨hi, _⟩ | ⟨_, r, rest, hl, hfail, _⟩ | ⟨_, r, rest, hl, _, rfl⟩ |
      ⟨_, hl, v, _, rfl⟩
    · exact absurd (hi.symm.trans hp) (by decide)
    · have hok : busFails s.params r = false := hbus r (by simp [hl])
      exact absurd (hok.symm.trans hfail) (by decide)
    · rw [hl, BusOk, List.forall_mem_cons] at hbus
      rw [hl, List.length_cons] at hn ⊢
      obtain ⟨hcount, hcode⟩ := ih (s := afterRead r rest s) hp hbus.2 hrest (Nat.le_of_succ_le_succ hn)
      exact ⟨congrArg (· + 1) hcount, hcode⟩
    · rw [hl, List.length_nil] at hn ⊢
      obtain rfl : n = 0 := by omega
      cases hrest
      exact ⟨rfl, rfl⟩

/-- The step of the write that carries a command whose checks pass starts it (10_state.md R50). -/
theorem step_of_writes_accepted {i : Instr} {v : Variant} {s : State} {rest : List Event}
    (hv : variantOfOpc i.opc = some v) (hw : Writes s 0x14 (encode i) rest) (hp : s.phase = .idle)
    (ha : Accepts s.params v s.src s.inputLen) :
    step s = .next (accepted v { s with script := rest, resp := .written }) := by
  rw [step_of_writes (r := .cmd) hw, writeReg, decodeWord_encode]
  exact exec_of_accepts hv hp ha

/-- Settles O26: the write's step accepts the command, and then the engine has the machine to itself. -/
theorem writtenCommandCompletesWithinLPlusTwoSteps :
    Obligations.WrittenCommandCompletesWithinLPlusTwoSteps := by
  intro i v s hv hw hp ha
  have haccept := step_of_writes_accepted hv hw hp ha
  have hrunOk : RunOk (accepted v { s with script := [], resp := .written }) := runOk_accepted ha
  obtain ⟨k, hk, t, hrun, hidle, hdone, hopc, hcode⟩ := hrunOk.endsWithin rfl
  obtain ⟨hcore, hscript, hmem⟩ := core_run_of_engineRun rfl hrun
  have hbound : k ≤ s.inputLen + 1 := hk.trans (Nat.succ_le_succ hrunOk.length_plan_le)
  refine ⟨k + 1, Nat.le_add_left 1 k, Nat.succ_le_succ hbound, t,
    (core_run_succ Sys2Proof.core k haccept).trans hcore, hscript, hidle, hdone,
    hopc.trans (opc_of_variantOfOpc hv), hmem, hcode.imp_right And.left, fun hbus => ?_⟩
  obtain ⟨hcount, hsuccess⟩ := engineRun_exact_of_busOk rfl hbus hrun hk hidle
  exact ⟨congrArg (· + 1) hcount, hsuccess⟩

end Sys2Proof.Machine
end
